-- ==== Sys2Proof/Word.lean ====
section
/-! DEFINITION. The widths the spec names: bytes of the frame buffer (R28), 16-bit words (R8), 24-bit colours (R39),
32-bit command words (R81), 64-bit time stamps and response data (R11, R14). -/

namespace Sys2Proof

/-- One byte of the sensor's stream and of `FB` (R28). -/
abbrev Byte := BitVec 8

/-- A 16-bit unsigned quantity: a frame word, a temperature in cC, an immediate (R8, R15, R83). -/
abbrev Half := BitVec 16

/-- A colour `R ++ G ++ B`, red in bits 23:16 (R39, R172). -/
abbrev Colour := BitVec 24

/-- A command word (R81). -/
abbrev Word := BitVec 32

/-- A time stamp in milliseconds, or the data of a response (R11, R14). -/
abbrev Long := BitVec 64

end Sys2Proof
end

