-- ==== Sys2Proof/Syntax.lean ====
section
/-! DEFINITION. The commands of table T82, one constructor for each row of the opcode table (R82), and the lines of
the assembler with the pseudo-command `CYCLE` (R87, R88). -/

namespace Sys2Proof

/-- The ten commands (R82). The three operands are the 16-bit immediate, read as an unsigned number (R83). -/
inductive Instr where
  /-- `ACQ` (R101). -/
  | acq
  /-- `VAL` (R105). -/
  | val
  /-- `DEC` (R121). -/
  | dec
  /-- `ANA thr`, `thr` the occupancy threshold in cC (R131). -/
  | ana (thr : Half)
  /-- `ALR` (R151). -/
  | alr
  /-- `REN` (R166). -/
  | ren
  /-- `PRS` (R180). -/
  | prs
  /-- `END` (R191). -/
  | endCycle
  /-- `RDR n`, `n` a register number (R192). -/
  | rdr (n : Half)
  /-- `RDT i`, `i` a pixel index (R194). -/
  | rdt (i : Half)
deriving DecidableEq, Repr

/-- The commands of format Z: an opcode and no operand (R81, R82). -/
inductive OpZ where
  | acq | val | dec | alr | ren | prs | endCycle
deriving DecidableEq, Repr

/-- The commands of format I: an opcode and `imm16` (R81, R82). -/
inductive OpI where
  | ana | rdr | rdt
deriving DecidableEq, Repr

/-- One line of assembler source (R87): a mnemonic, for format I with an integer; or the pseudo-command (R88). The
integers are those a programmer may write, so that one outside 0 to 65535 can be refused (see WellFormed). -/
inductive AsmLine where
  | plain (op : OpZ)
  | withImm (op : OpI) (imm : Nat)
  | cycle (thr : Nat)
deriving DecidableEq, Repr

end Sys2Proof
end

