-- ==== Sys2Proof/WellFormed.lean ====
section
/-! DEFINITION. Which terms of the syntax are well formed. -/

namespace Sys2Proof

/-- Every command term is well formed: an immediate is 16 bits wide by its type, every value of it is legal (R83), and
a register number or pixel index out of range is no matter of form, it decodes and answers `BadIndex` (R84). -/
def Instr.wellFormed : Instr → Bool
  | .acq => true
  | .val => true
  | .dec => true
  | .ana _ => true
  | .alr => true
  | .ren => true
  | .prs => true
  | .endCycle => true
  | .rdr _ => true
  | .rdt _ => true

/-- An assembler line is well formed when its integer is 0 to 65535 (R87, R88). -/
def AsmLine.wellFormed : AsmLine → Bool
  | .plain _ => true
  | .withImm _ imm => imm < 65536
  | .cycle thr => thr < 65536

end Sys2Proof
end

