-- ==== Sys2Proof/Decode.lean ====
section
/-! DEFINITION. Decoding of command words, total and rejecting by name (R84, R85), the encoder written from the same
table (R82), and the opcode table itself as data (T82). -/

namespace Sys2Proof

/-- Why a word is no command (R85). -/
inductive Illegal where
  /-- `op` is outside table T82. -/
  | unknownOp
  /-- `rsv`, bits 23:16, is not 0. -/
  | reservedNotZero
  /-- A format Z opcode with `imm16` not 0. -/
  | immediateNotZero
deriving DecidableEq, Repr

/-- What a word decodes to: one of the ten commands or `Illegal` (R84). -/
inductive Decoded where
  | command (i : Instr)
  | illegal (why : Illegal)
deriving DecidableEq, Repr

/-- `op = w[31:24]` (T81). -/
def opField (w : Word) : Byte := w.extractLsb' 24 8

/-- `rsv = w[23:16]` (T81). -/
def rsvField (w : Word) : Byte := w.extractLsb' 16 8

/-- `imm16 = w[15:0]` (T81). -/
def immField (w : Word) : Half := w.extractLsb' 0 16

/-- A format Z opcode takes `imm16 = 0` and nothing else (R84). -/
def decodeZ (imm : Half) (i : Instr) : Decoded :=
  if imm = 0 then .command i else .illegal .immediateNotZero

/-- The opcode map of table T82, for a word whose `rsv` is 0. -/
def decodeOp (op : Nat) (imm : Half) : Decoded :=
  match op with
  | 0x01 => decodeZ imm .acq
  | 0x02 => decodeZ imm .val
  | 0x03 => decodeZ imm .dec
  | 0x04 => .command (.ana imm)
  | 0x05 => decodeZ imm .alr
  | 0x06 => decodeZ imm .ren
  | 0x07 => decodeZ imm .prs
  | 0x08 => decodeZ imm .endCycle
  | 0x10 => .command (.rdr imm)
  | 0x11 => .command (.rdt imm)
  | _ => .illegal .unknownOp

/-- The decoder of R84. It looks at no state. -/
def decode (w : Word) : Decoded :=
  if rsvField w ≠ 0 then .illegal .reservedNotZero else decodeOp (opField w).toNat (immField w)

/-- The opcode of each command (T82). -/
def Instr.opcode : Instr → Byte
  | .acq => 0x01
  | .val => 0x02
  | .dec => 0x03
  | .ana _ => 0x04
  | .alr => 0x05
  | .ren => 0x06
  | .prs => 0x07
  | .endCycle => 0x08
  | .rdr _ => 0x10
  | .rdt _ => 0x11

/-- The immediate of each command, 0 for format Z (T81). -/
def Instr.imm : Instr → Half
  | .ana thr => thr
  | .rdr n => n
  | .rdt i => i
  | .acq => 0
  | .val => 0
  | .dec => 0
  | .alr => 0
  | .ren => 0
  | .prs => 0
  | .endCycle => 0

/-- The word of a command: `op ++ rsv ++ imm16` with `rsv = 0` (T81, T82). -/
def encode (i : Instr) : Word := i.opcode ++ (0 : Byte) ++ i.imm

/-- One row of table T82. -/
structure OpRow where
  mnemonic : String
  pattern : Word
  mask : Word
deriving DecidableEq, Repr

/-- Table T82, in its order: a word `w` is the command of a row exactly when `w & mask == match` (R82). -/
def opTable : List OpRow :=
  [⟨"ACQ", 0x01000000, 0xFFFFFFFF⟩, ⟨"VAL", 0x02000000, 0xFFFFFFFF⟩, ⟨"DEC", 0x03000000, 0xFFFFFFFF⟩,
   ⟨"ANA", 0x04000000, 0xFFFF0000⟩, ⟨"ALR", 0x05000000, 0xFFFFFFFF⟩, ⟨"REN", 0x06000000, 0xFFFFFFFF⟩,
   ⟨"PRS", 0x07000000, 0xFFFFFFFF⟩, ⟨"END", 0x08000000, 0xFFFFFFFF⟩, ⟨"RDR", 0x10000000, 0xFFFF0000⟩,
   ⟨"RDT", 0x11000000, 0xFFFF0000⟩]

/-- The mnemonic of each command (T82). -/
def Instr.mnemonic : Instr → String
  | .acq => "ACQ"
  | .val => "VAL"
  | .dec => "DEC"
  | .ana _ => "ANA"
  | .alr => "ALR"
  | .ren => "REN"
  | .prs => "PRS"
  | .endCycle => "END"
  | .rdr _ => "RDR"
  | .rdt _ => "RDT"

/-- The row's test `w & mask == match` (R82). -/
def OpRow.accepts (r : OpRow) (w : Word) : Bool := w &&& r.mask == r.pattern

/-- The host's question: the instruction read from the `nbits` low bits of `w`, every bit above them 0. The word is a
number, so no byte order enters (R81; log 15). -/
def decodeTableWord (nbits w : Nat) : Option Instr :=
  match decode (BitVec.ofNat 32 (w % 2 ^ nbits)) with
  | .command i => some i
  | .illegal _ => none

end Sys2Proof
end

