-- ==== Sys2Proof/Config.lean ====
section
/-! DEFINITION. What does not change while the machine runs: the fixed parameters of table T5 (R5) as named constants
(U1 asks for names), the open parameters of table T6 (R6), and the free values that stand for answers of the
environment the model does not choose (R10, R11). -/

namespace Sys2Proof.Config

/-- `N`: the frame length in bytes (T5). -/
abbrev frameBytes : Nat := 1544
/-- `W`: grid columns (T5). -/
abbrev width : Nat := 32
/-- `H`: grid rows (T5). -/
abbrev height : Nat := 24
/-- `NPIX = W*H` (T5). -/
abbrev numPixels : Nat := 768
/-- `NWORDS_SUM`: the 16-bit words summed by the checksum, covering bytes [0,1542) (T5). -/
abbrev numSummed : Nat := 771
/-- `MIN_LIMIT_CC`: the floor limit in cC (T5). -/
abbrev minLimit : Nat := 0
/-- `MAX_LIMIT_CC`: the ceiling limit in cC (T5). -/
abbrev maxLimit : Nat := 30000
/-- `FLAT_SPAN_CC`: the span of a flat scan in cC (T5). -/
abbrev flatSpan : Nat := 100
/-- `COOLDOWN_MS` (T5). -/
abbrev cooldownMs : Nat := 500
/-- `PULSE_MS` (T5). -/
abbrev pulseMs : Nat := 100
/-- `CENTER_IDX = 12*32 + 16` (T5, D18). -/
abbrev centerIdx : Nat := 400

/-- The open parameters of table T6 with exactly their constraints (R6): `SENTINEL` is not 0, `SX` and `SY` are at
least 1. The upper bounds on `SX` and `SY` are those under which the 16-bit overlay coordinates hold (R176, U8).
`PALETTE` is total because the table has one entry for each of the 256 intensities (R171). -/
structure Params where
  sentinel : Byte
  palette : Vector Colour 256
  sx : Nat
  sy : Nat
  sentinel_ne : sentinel ≠ 0
  sx_pos : 1 ≤ sx
  sy_pos : 1 ≤ sy
  sx_le : sx ≤ 2114
  sy_le : sy ≤ 2849
deriving DecidableEq, Repr

/-- `PALETTE(g)` (R171). -/
def Params.colour (p : Params) (g : Byte) : Colour := p.palette[g.toNat]

/-- `DISP_W = 32*SX` (T6). -/
def Params.dispW (p : Params) : Nat := width * p.sx

/-- `DISP_H = 24*SY` (T6). -/
def Params.dispH (p : Params) : Nat := height * p.sy

/-- Selects the sentinel of the machine, any of the 255 non-zero bytes (R6, D2). No value is given to it. -/
opaque sentinelSelector : Fin 255

/-- The palette of the machine (R171, D15). No value is given to it. -/
opaque paletteTable : Vector Colour 256

/-- Selects `SX`, any of 1 to 2114 (R176, D16). No value is given to it. -/
opaque sxSelector : Fin 2114

/-- Selects `SY`, any of 1 to 2849 (R176, D16). No value is given to it. -/
opaque sySelector : Fin 2849

theorem sentinel_selected_ne (k : Fin 255) : BitVec.ofNat 8 (k.val + 1) ≠ 0 := by
  intro h
  have h' := congrArg BitVec.toNat h
  have := k.isLt
  simp only [BitVec.toNat_ofNat, BitVec.ofNat_eq_ofNat] at h'
  omega

/-- The open parameters of the machine, each an arbitrary value that meets its constraint (R6; log 5). -/
def params : Params where
  sentinel := BitVec.ofNat 8 (sentinelSelector.val + 1)
  palette := paletteTable
  sx := sxSelector.val + 1
  sy := sySelector.val + 1
  sentinel_ne := sentinel_selected_ne _
  sx_pos := Nat.le_add_left 1 _
  sy_pos := Nat.le_add_left 1 _
  sx_le := sxSelector.isLt
  sy_le := sySelector.isLt

/-- FREE VALUE: the answer of `SensorPending()` where the state lists none (R10; log 2). -/
opaque freePending : Nat → Bool

/-- FREE VALUE: the bytes `SensorRead(1544)` returns where the state lists no answer (R10; log 2). -/
opaque freeRead : Nat → List Byte

/-- FREE VALUE: the answer of `ClockNow()` where the state lists none (R11; log 2). -/
opaque freeClock : Nat → Long

end Sys2Proof.Config
end

