-- ==== Sys2Proof/Machine/State.lean ====
section
/-! DEFINITION. The state of the block (table T20), the output it produces (R18), the inputs it will be given (R10, R11,
R80), the reasons a step can stop, and the state after reset (table T43). -/

namespace Sys2Proof.Machine

/-- The eight stage codes of table T22 (R22). -/
inductive Stage where
  | idle | loaded | valid | decoded | analyzed | alerted | rendered | presented
deriving DecidableEq, Repr

/-- The eight response codes of table T206 (R206). -/
inductive RespCode where
  | ok | noData | incompleteFrame | invalidHeader | checksumMismatch | badStage | illegalCommand | badIndex
deriving DecidableEq, Repr

/-- The response to a command (R14, R89). -/
structure Response where
  code : RespCode
  data : Long
deriving DecidableEq, Repr

/-- An internal address space with elements of `w` bits (table T50): the listed (index, element) pairs. An index that
is not listed holds no value, and a buffer that holds `none` lists nothing (R9; log 6). -/
abbrev Space (w : Nat) := List (Nat × BitVec w)

/-- The one byte-addressed space, the frame buffer (R51). It is `Space 8`. -/
abbrev Memory := List Host.Cell

/-- The overlay descriptor handed over by `Present` (R41, R13). -/
structure Overlay where
  ct : Half
  hv : Bool
  hx : Option Half
  hy : Option Half
  ht : Option Half
deriving DecidableEq, Repr

/-- The output events (R12, R13). -/
inductive Event where
  | actSet (level : Bool)
  | hold (ms : Nat)
  | present (img : Space 24) (ov : Overlay)
deriving DecidableEq, Repr

/-- What the host may offer: a command word (R80), or the one reset, between commands (R230, R231). -/
inductive Offer where
  | command (w : Word)
  | reset
deriving DecidableEq, Repr

/-- The cycle-local state of table T20 (R21). `none`, or a space that lists nothing, is the spec's own `none` (R9). -/
structure Cycle where
  /-- `FB` (R28). -/
  fb : Memory
  /-- `DLEN` (R29). -/
  dlen : Option Half
  /-- `TG` (R30). -/
  tg : Space 16
  /-- `SELFT` (R31). -/
  selft : Option Half
  /-- `TMIN` (R32). -/
  tmin : Option Half
  /-- `TMAX` (R32). -/
  tmax : Option Half
  /-- `HOTV` (R34). -/
  hotv : Option Bool
  /-- `HOTX` (R34). -/
  hotx : Option (BitVec 5)
  /-- `HOTY` (R34). -/
  hoty : Option (BitVec 5)
  /-- `OCC` (R35). -/
  occ : Option Bool
  /-- `SPAN` (R36). -/
  span : Option Half
  /-- `GRAY` (R38). -/
  gray : Space 8
  /-- `COLOR` (R39). -/
  color : Space 24
  /-- `DISP` (R40). -/
  disp : Space 24
  /-- `OV_CT` (R41). -/
  ovCt : Option Half
  /-- `OV_HV` (R41). -/
  ovHv : Option Bool
  /-- `OV_HX` (R41). -/
  ovHx : Option Half
  /-- `OV_HY` (R41). -/
  ovHy : Option Half
  /-- `OV_HT` (R41). -/
  ovHt : Option Half
deriving DecidableEq, Repr

/-- Every cycle-local register and buffer at `none` (R44, T43). -/
def Cycle.empty : Cycle where
  fb := []
  dlen := none
  tg := []
  selft := none
  tmin := none
  tmax := none
  hotv := none
  hotx := none
  hoty := none
  occ := none
  span := none
  gray := []
  color := []
  disp := []
  ovCt := none
  ovHv := none
  ovHx := none
  ovHy := none
  ovHt := none

/-- The MODEL's own record of the outside world's inputs, no state of the block (R18; log 1, log 2). -/
structure Env where
  /-- What the host will offer, oldest first (R80). -/
  offered : List Offer
  /-- The answers `SensorPending()` will give, in order (R10). -/
  pending : List Bool
  /-- The answers `SensorRead(1544)` will give, in order (R10). -/
  reads : List (List Byte)
  /-- The answers `ClockNow()` will give, in order (R11). -/
  clock : List Long
  /-- Selects the next free value once a list above is used up. -/
  freeIdx : Nat
  /-- The answers `ClockNow()` has given, latest first (R45 (f)). -/
  clockGiven : List Long
deriving DecidableEq, Repr

/-- The state of the model: the block's registers and buffers, its parameters, its output and its inputs. -/
structure State where
  /-- `STAGE` (R22). -/
  stage : Stage
  /-- `STATUS` (R25). -/
  status : BitVec 8
  /-- `ACT` (R26). -/
  act : Bool
  /-- `LAST_TRIG` (R33). -/
  lastTrig : Long
  /-- The cycle-local registers and buffers (R21). -/
  cyc : Cycle
  /-- The open parameters (R6), which no step changes (log 5). -/
  cfg : Config.Params
  /-- The inputs (log 1, log 2). -/
  env : Env
  /-- The output event trace, oldest first (R18). -/
  events : List Event
  /-- The responses, oldest first (R14, R247). -/
  responses : List Response
deriving DecidableEq, Repr

/-- Why a step can fault. No reachable state faults (R9, R24, R198; log 7). -/
inductive Fault where
  /-- `VAL` or `DEC` with `FB` holding no whole frame. Safe: the spec rules the state out (R24). -/
  | frameAbsent
  /-- `ANA` or `REN` with `TG` holding no whole grid. Safe: the spec rules the state out (R24). -/
  | gridAbsent
  /-- `ALR` or `REN` with a detection register holding `none`. Safe: the spec rules the state out (R24). -/
  | detectionAbsent
  /-- `REN` with `SPAN` 0, or a sample below `TMIN`. Safe: the spec rules the state out (R139, R198). -/
  | renderRange
  /-- `PRS` with `DISP`, `OV_CT` or `OV_HV` holding `none`. Safe: the spec rules the state out (R24). -/
  | renderAbsent
deriving DecidableEq, Repr

/-- Why a step can be refused. -/
inductive Refusal where
  /-- Raised by an arm of `exec` whose command has no meaning yet. Safe: nothing is claimed about it. -/
  | notModelled (mnemonic : String)
  /-- `ALR` where the environment answers `ClockNow()` with less than `LAST_TRIG`: a model refuses that input (R159,
  U6; log 3). Safe: such a run has no meaning. -/
  | clockBelowLastTrig
  /-- `ALR` where the environment answers `ClockNow()` with less than it answered before, a wrap past `2^64 - 1` among
  the cases: the clock's duty is broken and there is no step (R11, U6, D12; log 3). Safe: such a run has no meaning. -/
  | clockDecreased
  /-- `ACQ` where the environment answers `SensorRead(1544)` with more than 1544 bytes: refused (R10, U13; log 4).
  Safe: such a run has no meaning. -/
  | sensorReadTooLong
deriving DecidableEq, Repr

/-- No offer, no answer listed, no free value drawn (log 1, log 2). -/
def Env.none : Env where
  offered := []
  pending := []
  reads := []
  clock := []
  freeIdx := 0
  clockGiven := []

/-- The machine right after reset (table T43, R43, R230). -/
def State.reset : State where
  stage := .idle
  status := 0
  act := false
  lastTrig := 0
  cyc := Cycle.empty
  cfg := Config.params
  env := Env.none
  events := []
  responses := []

end Sys2Proof.Machine
end

