-- ==== Sys2Proof/Machine/Ops.lean ====
section
/-! DEFINITION. The named operations every meaning is written over: the address spaces (R9, R50), little-endian reads
(R8), responses and rejections (R14, R218), cleanup (R44), the environment's primitives (R10 to R13), the command port
(R80) and reset (R230). -/

namespace Sys2Proof.Machine

/-! ## Address spaces -/

/-- The addresses rise strictly. No entry can equal what an unlisted index reads as, since that is no value (log 6). -/
abbrev Space.wf {w : Nat} (sp : Space w) : Prop := sp.Pairwise fun c d => c.1 < d.1

/-- The canonical form of the frame buffer: strictly rising addresses, none outside 0..1543 (R50). -/
abbrev Memory.wf (m : Memory) : Prop := Space.wf m ∧ ∀ c ∈ m, c.1 < Config.frameBytes

/-- The element at an index, `none` where the space holds no value (R9). -/
def Space.read {w : Nat} : Space w → Nat → Option (BitVec w)
  | [], _ => none
  | (a, v) :: rest, i => if a = i then some v else Space.read rest i

/-- Store one element (R9). -/
def Space.write {w : Nat} : Space w → Nat → BitVec w → Space w
  | [], i, v => [(i, v)]
  | (a, u) :: rest, i, v =>
    if i < a then (i, v) :: (a, u) :: rest
    else if i = a then (i, v) :: rest
    else (a, u) :: Space.write rest i v

/-- Store the elements of a list at consecutive indices from `i`. The stores of a loop over a buffer have distinct
targets, so their order cannot be seen; the last is made first. -/
def Space.fillFrom {w : Nat} : Nat → List (BitVec w) → Space w
  | _, [] => []
  | i, v :: vs => Space.write (Space.fillFrom (i + 1) vs) i v

/-- The buffer written by a loop over all its elements: element `i` of the list at index `i`, nothing else. -/
def Space.fill {w : Nat} (vs : List (BitVec w)) : Space w := Space.fillFrom 0 vs

/-- The elements of a buffer of `n` elements in index order, if it holds a value at exactly the indices 0..n-1. -/
def Space.contents {w : Nat} (n : Nat) (sp : Space w) : Option (List (BitVec w)) :=
  if sp.map Prod.fst = List.range n then some (sp.map Prod.snd) else none

/-! ## Little-endian words (R8, R59) -/

/-- `lo + 256*hi` (R8). -/
def le16 (lo hi : Byte) : Half := hi ++ lo

/-- `LE16(B, o)` of a byte sequence at an offset (R8). -/
def le16At (bs : List Byte) (o : Nat) : Half := le16 (bs.getD o 0) (bs.getD (o + 1) 0)

/-- A byte sequence as words: word `k` is `LE16(B, 2*k)` (R60). -/
def halves : List Byte → List Half
  | lo :: hi :: rest => le16 lo hi :: halves rest
  | _ => []

/-- `MemRead(FB, a, 2)` (R9). -/
def Memory.readHalf (m : Memory) (a : Nat) : Option Half :=
  match Space.read m a, Space.read m (a + 1) with
  | some lo, some hi => some (le16 lo hi)
  | _, _ => none

/-! ## Codes -/

/-- The stage codes of table T22. -/
def Stage.code : Stage → BitVec 3
  | .idle => 0
  | .loaded => 1
  | .valid => 2
  | .decoded => 3
  | .analyzed => 4
  | .alerted => 5
  | .rendered => 6
  | .presented => 7

/-- The response codes of table T206. -/
def RespCode.code : RespCode → BitVec 8
  | .ok => 0
  | .noData => 1
  | .incompleteFrame => 2
  | .invalidHeader => 3
  | .checksumMismatch => 4
  | .badStage => 5
  | .illegalCommand => 6
  | .badIndex => 7

/-! ## Responses and rejections -/

/-- The response of an access command, which does not write `STATUS` (R192, R194, R25). -/
def State.answer (s : State) (code : RespCode) (data : Long) : State :=
  { s with responses := s.responses ++ [⟨code, data⟩] }

/-- `STATUS <- code; respond(code, data)` (R14, R25, R100). -/
def State.respond (s : State) (code : RespCode) (data : Long) : State :=
  { s with status := code.code, responses := s.responses ++ [⟨code, data⟩] }

/-- `Cleanup()`: every cycle-local register and buffer to `none`, no persistent register changed (R44). -/
def State.cleanup (s : State) : State := { s with cyc := Cycle.empty }

/-- TAKING A REJECTION that writes `STATUS` and nothing else: `NoData`, `IncompleteFrame`, `BadStage` of a pipeline
command, `IllegalCommand` (R218). It saves nothing and goes nowhere, so there is nothing to return from (R219). -/
def State.reject (s : State) (code : RespCode) : State := s.respond code 0

/-- Taking a rejection that ends the cycle: `InvalidHeader`, `ChecksumMismatch` (R218). The next cycle starts with
`ACQ`; this is the block's form of a return (R219). -/
def State.rejectCycle (s : State) (code : RespCode) : State := State.reject { s.cleanup with stage := .idle } code

/-- A word that is no command (R85, R202, R214). -/
def State.illegalWord (s : State) : State := s.reject .illegalCommand

/-- The stage guard of a pipeline command: in any other stage `BadStage`, and nothing but `STATUS` changes (R100, R213). -/
def guardStage (need : Stage) (s : State) (body : Host.Outcome State Fault Refusal) : Host.Outcome State Fault Refusal :=
  if s.stage = need then body else .next (s.reject .badStage)

/-! ## The environment -/

/-- `SensorPending()`: the answer, and the state with that answer given (R10; log 2). -/
def sensorPending (s : State) : Bool × State :=
  match s.env.pending with
  | p :: ps => (p, { s with env := { s.env with pending := ps } })
  | [] => (Config.freePending s.env.freeIdx, { s with env := { s.env with freeIdx := s.env.freeIdx + 1 } })

/-- `SensorRead(1544)`: the bytes returned, and the state with them consumed (R10, R52). A free answer keeps the
contract's bound of 1544 bytes (log 2, log 4). -/
def sensorRead (s : State) : List Byte × State :=
  match s.env.reads with
  | bs :: rest => (bs, { s with env := { s.env with reads := rest } })
  | [] => ((Config.freeRead s.env.freeIdx).take Config.frameBytes,
      { s with env := { s.env with freeIdx := s.env.freeIdx + 1 } })

/-- The later of two time stamps. -/
def later (a b : Long) : Long := if a < b then b else a

/-- The least answer the clock's duty leaves open: not below `LAST_TRIG`, nor below its last answer (R11). -/
def clockFloor (s : State) : Long := later s.lastTrig (s.env.clockGiven.headD 0)

/-- The state with the answer `t` of `ClockNow()` recorded as given. -/
def State.gaveClock (s : State) (t : Long) : State :=
  { s with env := { s.env with clockGiven := t :: s.env.clockGiven } }

/-- `ClockNow()`: the answer, and the state with it given (R11). A free answer keeps the clock's duty (log 3). -/
def clockNow (s : State) : Long × State :=
  match s.env.clock with
  | t :: ts => (t, State.gaveClock { s with env := { s.env with clock := ts } } t)
  | [] =>
    (later (clockFloor s) (Config.freeClock s.env.freeIdx),
      State.gaveClock { s with env := { s.env with freeIdx := s.env.freeIdx + 1 } }
        (later (clockFloor s) (Config.freeClock s.env.freeIdx)))

/-- How an answer `t` of `ClockNow()` breaks the environment's duty, if it does: below `LAST_TRIG`, or below the last
answer given (R11, R159, U6; log 3). `s` is the state before the call. -/
def clockRefusal (s : State) (t : Long) : Option Refusal :=
  if t < s.lastTrig then some .clockBelowLastTrig
  else if t < s.env.clockGiven.headD 0 then some .clockDecreased
  else none

/-- Record an output event (R12, R13, R65). -/
def State.emit (s : State) (e : Event) : State := { s with events := s.events ++ [e] }

/-- `ActSet(b)`: drive the output, record the event (R12). -/
def State.actSet (s : State) (b : Bool) : State := State.emit { s with act := b } (.actSet b)

/-- `Hold(n)`: an event and nothing else (R12, R244). -/
def State.hold (s : State) (ms : Nat) : State := s.emit (.hold ms)

/-- `Present(img, ov)` (R13). -/
def State.present (s : State) (img : Space 24) (ov : Overlay) : State := s.emit (.present img ov)

/-! ## The command port and reset -/

/-- Take the host's next offer, if it makes one (R80; log 1). -/
def takeOffer (s : State) : Option (Offer × State) :=
  match s.env.offered with
  | [] => none
  | o :: rest => some (o, { s with env := { s.env with offered := rest } })

/-- Reset, applied between commands (R230, R231): every piece of the block's state and its output to table T43. The
parameters and the outside world are not the block's and stay (log 8). -/
def State.applyReset (s : State) : State := { State.reset with cfg := s.cfg, env := s.env }

/-- Offer the word `w` next, before whatever the host would offer (log 1). -/
def State.offerFirst (s : State) (w : Word) : State :=
  { s with env := { s.env with offered := .command w :: s.env.offered } }

end Sys2Proof.Machine
end

