-- ==== Sys2Proof/Machine/Operands.lean ====
section
/-! DEFINITION. What a 16-bit immediate means (R83): a threshold in cC, a register number of table T46, or a pixel
index; and reading a scalar register by its name. -/

namespace Sys2Proof.Machine

/-- The registers of table T46 (R46). -/
inductive Reg where
  | stage | status | act | lastTrig | dlen | selft | tmin | tmax | span | occ | hotv | hotx | hoty
  | ovCt | ovHv | ovHx | ovHy | ovHt
deriving DecidableEq, Repr

/-- The register numbers of table T46, in order from 0. -/
def regMap : List Reg :=
  [.stage, .status, .act, .lastTrig, .dlen, .selft, .tmin, .tmax, .span, .occ, .hotv, .hotx, .hoty,
   .ovCt, .ovHv, .ovHx, .ovHy, .ovHt]

/-- The register an immediate names, if it names one: numbers 18 to 65535 name none (R46). -/
def regOfImm (n : Half) : Option Reg := regMap[n.toNat]?

/-- The threshold an immediate stands for, in cC (R83). -/
def thresholdOfImm (imm : Half) : Nat := imm.toNat

/-- The pixel index an immediate stands for, if it is one: 0 to 767 (R194). -/
def pixelOfImm (imm : Half) : Option Nat := if imm.toNat < Config.numPixels then some imm.toNat else none

/-- `zext_64` of a value, if there is one (R46). -/
def zext64 {w : Nat} (v : Option (BitVec w)) : Option Long := v.map (·.setWidth 64)

/-- A flag as a 1-bit value. -/
def bit1 (b : Option Bool) : Option (BitVec 1) := b.map BitVec.ofBool

/-- The value a register holds, zero-extended to 64 bits, `none` where it holds none (R46, R193). -/
def State.readReg (s : State) : Reg → Option Long
  | .stage => zext64 (some s.stage.code)
  | .status => zext64 (some s.status)
  | .act => zext64 (bit1 (some s.act))
  | .lastTrig => zext64 (some s.lastTrig)
  | .dlen => zext64 s.cyc.dlen
  | .selft => zext64 s.cyc.selft
  | .tmin => zext64 s.cyc.tmin
  | .tmax => zext64 s.cyc.tmax
  | .span => zext64 s.cyc.span
  | .occ => zext64 (bit1 s.cyc.occ)
  | .hotv => zext64 (bit1 s.cyc.hotv)
  | .hotx => zext64 s.cyc.hotx
  | .hoty => zext64 s.cyc.hoty
  | .ovCt => zext64 s.cyc.ovCt
  | .ovHv => zext64 (bit1 s.cyc.ovHv)
  | .ovHx => zext64 s.cyc.ovHx
  | .ovHy => zext64 s.cyc.ovHy
  | .ovHt => zext64 s.cyc.ovHt

end Sys2Proof.Machine
end

