-- ==== Sys2Proof/Machine/Access.lean ====
section
/-! DEFINITION. Cleanup and the access commands: `END` (R191), `RDR` (R192, R193), `RDT` (R194). -/

namespace Sys2Proof.Machine

/-- `END`: legal in every stage, always `OK` (R191). -/
def execEndCycle (s : State) : Host.Outcome State Fault Refusal :=
  .next (State.respond { s.cleanup with stage := .idle } .ok 0)

/-- `RDR n`: no such register before no value (R192, R193, R217). -/
def execRdr (n : Half) (s : State) : Host.Outcome State Fault Refusal :=
  .next
    (match regOfImm n with
     | none => s.answer .badIndex 0
     | some r =>
       match s.readReg r with
       | none => s.answer .badStage 0
       | some v => s.answer .ok v)

/-- The stages in which `TG` holds a value: 3 to 7 (R24, R194). -/
def gridHeld (st : Stage) : Bool := decide (Stage.decoded.code ≤ st.code)

/-- `RDT i`: no such pixel before no value (R194, R215, R217; log 7). -/
def execRdt (i : Half) (s : State) : Host.Outcome State Fault Refusal :=
  .next
    (match pixelOfImm i with
     | none => s.answer .badIndex 0
     | some k =>
       if gridHeld s.stage then
         match Space.read s.cyc.tg k with
         | none => s.answer .badStage 0
         | some t => s.answer .ok (t.setWidth 64)
       else s.answer .badStage 0)

end Sys2Proof.Machine
end

