-- ==== Sys2Proof/Machine/Acquire.lean ====
section
/-! DEFINITION. The frame reader and the frame validator: `ACQ` (R101 to R104) and `VAL` (R105 to R111). -/

namespace Sys2Proof.Machine

/-- `ACQ` after the environment has answered: nothing pending, a short read, or a whole frame stored in arrival order
(R52, R101, R103). -/
def acquire (s : State) : State :=
  let (pending, s1) := sensorPending s
  if pending then
    let (bs, s2) := sensorRead s1
    if bs.length < Config.frameBytes then s2.reject .incompleteFrame
    else State.respond { s2 with stage := .loaded, cyc := { s2.cyc with fb := Space.fill bs } } .ok 0
  else s1.reject .noData

/-- The environment would break the contract of `SensorRead`: it has data pending and returns more than 1544 bytes
(R10, U13; log 4). -/
def readTooLong (s : State) : Bool :=
  decide (Config.frameBytes < (s.env.reads.headD []).length) && (sensorPending s).1

/-- `ACQ` (R101). -/
def execAcq (s : State) : Host.Outcome State Fault Refusal :=
  guardStage .idle s (if readTooLong s then .refused .sensorReadTooLong else .next (acquire s))

/-- Both header bytes equal the sentinel (R54, R106). -/
def headerOk (sentinel : Byte) (frame : List Byte) : Bool := frame.take 2 = [sentinel, sentinel]

/-- `SUM(FB)`: the 16-bit sum, modulo 65536, of the 771 words that cover bytes [0,1542) (R107). -/
def checksum (frame : List Byte) : Half := ((halves frame).take Config.numSummed).foldl (· + ·) 0

/-- The trailing word, `LE16(FB, 1542)` (R58). -/
def trailingWord (frame : List Byte) : Half := (halves frame).getD Config.numSummed 0

/-- The declared length, `LE16(FB, 2)` (R29, R55). -/
def declaredLength (frame : List Byte) : Half := (halves frame).getD 1 0

/-- `VAL` on the bytes of `FB`: header before checksum (R105, R108). -/
def validate (s : State) (frame : List Byte) : State :=
  if headerOk s.cfg.sentinel frame then
    if checksum frame = trailingWord frame then
      State.respond { s with stage := .valid, cyc := { s.cyc with dlen := some (declaredLength frame) } } .ok 0
    else s.rejectCycle .checksumMismatch
  else s.rejectCycle .invalidHeader

/-- `VAL` (R105). -/
def execVal (s : State) : Host.Outcome State Fault Refusal :=
  guardStage .loaded s
    (match Space.contents Config.frameBytes s.cyc.fb with
     | some frame => .next (validate s frame)
     | none => .fault .frameAbsent)

end Sys2Proof.Machine
end

