-- ==== Sys2Proof/Machine/Alert.lean ====
section
/-! DEFINITION. The debounced pulse controller: `ALR` (R150 to R160). -/

namespace Sys2Proof.Machine

/-- More than `COOLDOWN_MS` has passed since the last firing (R153). -/
def cooledDown (last now : Long) : Bool := decide (Config.cooldownMs < now.toNat - last.toNat)

/-- The firing sequence: the pulse, then the sample taken at the start of the command is stored (R152). -/
def firePulse (s : State) (now : Long) : State :=
  { ((s.actSet true).hold Config.pulseMs).actSet false with lastTrig := now }

/-- `ALR` once the clock is sampled (R151). -/
def alert (s : State) (occ : Bool) (now : Long) : State :=
  if occ && cooledDown s.lastTrig now then
    State.respond { firePulse s now with stage := .alerted } .ok 1
  else State.respond { s with stage := .alerted } .ok 0

/-- `ALR` (R151). A clock answer that breaks the duty is refused (R11, R159, U6, D12; log 3). -/
def execAlr (s : State) : Host.Outcome State Fault Refusal :=
  guardStage .analyzed s
    (match s.cyc.occ with
     | none => .fault .detectionAbsent
     | some occ =>
       match clockRefusal s (clockNow s).1 with
       | some r => .refused r
       | none => .next (alert (clockNow s).2 occ (clockNow s).1))

end Sys2Proof.Machine
end

