-- ==== Sys2Proof/Machine/DecodeFrame.lean ====
section
/-! DEFINITION. The fixed-point temperature decoder: `DEC` (R120 to R124). -/

namespace Sys2Proof.Machine

/-- The 768 samples, sample `i` being `LE16(FB, 4+2i)`: words 2 to 769 of the frame (R56, R121). -/
def samples (frame : List Byte) : List Half := ((halves frame).drop 2).take Config.numPixels

/-- `DEC` on the bytes of `FB` (R121). The trailing word is copied to `SELFT` (R122). -/
def decodeFrame (s : State) (frame : List Byte) : State :=
  State.respond
    { s with
      stage := .decoded
      cyc := { s.cyc with tg := Space.fill (samples frame), selft := some (trailingWord frame) } } .ok 0

/-- `DEC` (R121). -/
def execDec (s : State) : Host.Outcome State Fault Refusal :=
  guardStage .valid s
    (match Space.contents Config.frameBytes s.cyc.fb with
     | some frame => .next (decodeFrame s frame)
     | none => .fault .frameAbsent)

end Sys2Proof.Machine
end

