-- ==== Sys2Proof/Machine/Flags.lean ====
section
/-! DEFINITION. The flag computations of table T37: `OCC`, `HOTV`, `OV_HV`. `ACT` is written by `ActSet` (Ops). -/

namespace Sys2Proof.Machine

/-- `OCC` after a maximum update: set when the newly stored, clamped maximum exceeds the threshold, never cleared (R135). -/
def occUpdate (occ : Bool) (tmax thr : Nat) : Bool := occ || decide (thr < tmax)

/-- `HOTV`: a hottest pixel was recorded in this scan (R34, R141). -/
def hotvOf (hot : Option (Nat × Nat)) : Bool := hot.isSome

/-- `OV_HV` is a copy of `HOTV` (R37, R176). -/
def ovHvOf (hotv : Bool) : Bool := hotv

end Sys2Proof.Machine
end

