-- ==== Sys2Proof/Machine/Render.lean ====
section
/-! DEFINITION. The palette mapper, the grid upscaler, the overlay descriptor and the hand-over to the display: `REN`
(R165 to R178) and `PRS` (R180, R181). -/

namespace Sys2Proof.Machine

/-- Normalisation of one sample: `255*(t - tmin)/span` to the nearest integer, ties up, limited to 255 (R168). -/
def normalise (tmin span t : Nat) : Nat :=
  min ((2 * (255 * (t - tmin)) + span) / (2 * span)) 255

/-- `GRAY` of a grid (R168). -/
def grayOf (tmin span : Nat) (grid : List Half) : List Byte :=
  grid.map fun t => BitVec.ofNat 8 (normalise tmin span t.toNat)

/-- `COLOR` from `GRAY` (R171). -/
def colorOf (p : Config.Params) (gray : List Byte) : List Colour := gray.map p.colour

/-- The sensor pixel a display column and row show (R173, R174). -/
def sourcePixel (p : Config.Params) (X Y : Nat) : Nat := Y / p.sy * Config.width + X / p.sx

/-- `DISP` from `COLOR`, row by row (R173). Every source pixel lies inside the 768 colours. -/
def upscale (p : Config.Params) (color : List Colour) : List Colour :=
  (List.range p.dispH).flatMap fun Y => (List.range p.dispW).map fun X => color.getD (sourcePixel p X Y) 0

/-- The overlay descriptor: the centre pixel's temperature and, with a hottest pixel, the marker (R175 to R177). The
hottest pixel comes with its own temperature. -/
def overlayOf (p : Config.Params) (center : Half) (hot : Option (Nat × Nat × Half)) : Overlay :=
  { ct := center
    hv := ovHvOf hot.isSome
    hx := hot.map fun h => BitVec.ofNat 16 (h.1 * p.sx)
    hy := hot.map fun h => BitVec.ofNat 16 (h.2.1 * p.sy)
    ht := hot.map fun h => h.2.2 }

/-- Write the render buffers and the overlay registers (R166). -/
def storeRender (c : Cycle) (p : Config.Params) (gray : List Byte) (ov : Overlay) : Cycle :=
  { c with
    gray := Space.fill gray
    color := Space.fill (colorOf p gray)
    disp := Space.fill (upscale p (colorOf p gray))
    ovCt := some ov.ct
    ovHv := some ov.hv
    ovHx := ov.hx
    ovHy := ov.hy
    ovHt := ov.ht }

/-- The hottest pixel and its temperature, from the detection registers (R176, R177): outer `none` where a register that
should hold a value holds none. -/
def hottest (c : Cycle) : Option (Option (Nat × Nat × Half)) :=
  match c.hotv with
  | none => none
  | some false => some none
  | some true =>
    match c.hotx, c.hoty with
    | some x, some y =>
      (Space.read c.tg (Config.width * y.toNat + x.toNat)).map fun t => some (x.toNat, y.toNat, t)
    | _, _ => none

/-- `REN` once its inputs are read (R166). -/
def render (s : State) (tmin span : Nat) (grid : List Half) (hot : Option (Nat × Nat × Half)) : State :=
  State.respond
    { s with
      stage := .rendered
      cyc := storeRender s.cyc s.cfg (grayOf tmin span grid) (overlayOf s.cfg (grid.getD Config.centerIdx 0) hot) } .ok 0

/-- The arithmetic of R168 is in range: `SPAN >= 1` and no sample below `TMIN` (R139, R198, R201). -/
def renderInRange (tmin span : Nat) (grid : List Half) : Bool :=
  decide (1 ≤ span) && grid.all fun t => decide (tmin ≤ t.toNat)

/-- `REN` (R166). -/
def execRen (s : State) : Host.Outcome State Fault Refusal :=
  guardStage .alerted s
    (match Space.contents Config.numPixels s.cyc.tg with
     | none => .fault .gridAbsent
     | some grid =>
       match s.cyc.tmin, s.cyc.span, hottest s.cyc with
       | some tmin, some span, some hot =>
         if renderInRange tmin.toNat span.toNat grid then .next (render s tmin.toNat span.toNat grid hot)
         else .fault .renderRange
       | _, _, _ => .fault .detectionAbsent)

/-- `DISP` holds a whole image of the display's size (R40). -/
def displayHeld (s : State) : Bool :=
  (Space.contents (s.cfg.dispW * s.cfg.dispH) s.cyc.disp).isSome

/-- `PRS` with the image and the descriptor as they stand (R180). -/
def handOver (s : State) (ov : Overlay) : State :=
  State.respond { s.present s.cyc.disp ov with stage := .presented } .ok 0

/-- `PRS` (R180). -/
def execPrs (s : State) : Host.Outcome State Fault Refusal :=
  guardStage .rendered s
    (match s.cyc.ovCt, s.cyc.ovHv with
     | some ct, some hv =>
       if displayHeld s then .next (handOver s ⟨ct, hv, s.cyc.ovHx, s.cyc.ovHy, s.cyc.ovHt⟩)
       else .fault .renderAbsent
     | _, _ => .fault .renderAbsent)

end Sys2Proof.Machine
end

