-- ==== Sys2Proof/Machine/Statistics.lean ====
section
/-! DEFINITION. The clamped min-max-argmax accumulator and occupancy detector: `ANA` (R130 to R146). -/

namespace Sys2Proof.Machine

/-- The four running accumulators of the scan (R130). -/
structure Scan where
  tmin : Nat
  tmax : Nat
  hot : Option (Nat × Nat)
  occ : Bool
deriving DecidableEq, Repr

/-- The scan-initial values (R132). -/
def scanInit : Scan := ⟨Config.maxLimit, Config.minLimit, none, false⟩

/-- The column and row of a pixel index (R16). -/
def pixelCoord (i : Nat) : Nat × Nat := (i % Config.width, i / Config.width)

/-- The minimum update (R133). -/
def minUpdate (tmin v : Nat) : Nat := if v < tmin then max v Config.minLimit else tmin

/-- One pixel of the scan: the minimum test and the maximum test, independent of each other (R133 to R135, R138). -/
def scanPixel (thr : Nat) (a : Scan) (i v : Nat) : Scan :=
  if a.tmax < v then
    { tmin := minUpdate a.tmin v
      tmax := min v Config.maxLimit
      hot := some (pixelCoord i)
      occ := occUpdate a.occ (min v Config.maxLimit) thr }
  else { a with tmin := minUpdate a.tmin v }

/-- The scan of consecutive pixels from index `i`, in row-major order (R16, R130). -/
def scanFrom (thr : Nat) : Nat → List Half → Scan → Scan
  | _, [], a => a
  | i, v :: vs, a => scanFrom thr (i + 1) vs (scanPixel thr a i v.toNat)

/-- The scan of a whole grid (R131). -/
def scanGrid (thr : Nat) (grid : List Half) : Scan := scanFrom thr 0 grid scanInit

/-- The span after the scan (R136). -/
def spanOf (a : Scan) : Nat := if a.tmax = a.tmin then Config.flatSpan else a.tmax - a.tmin

/-- Write the detection registers from the result of a scan (R131). -/
def storeScan (c : Cycle) (a : Scan) : Cycle :=
  { c with
    tmin := some (BitVec.ofNat 16 a.tmin)
    tmax := some (BitVec.ofNat 16 a.tmax)
    occ := some a.occ
    hotv := some (hotvOf a.hot)
    hotx := a.hot.map fun h => BitVec.ofNat 5 h.1
    hoty := a.hot.map fun h => BitVec.ofNat 5 h.2
    span := some (BitVec.ofNat 16 (spanOf a)) }

/-- `ANA` on the elements of `TG` (R131). -/
def analyze (s : State) (thr : Nat) (grid : List Half) : State :=
  State.respond { s with stage := .analyzed, cyc := storeScan s.cyc (scanGrid thr grid) } .ok 0

/-- `ANA thr` (R131). -/
def execAna (thr : Half) (s : State) : Host.Outcome State Fault Refusal :=
  guardStage .decoded s
    (match Space.contents Config.numPixels s.cyc.tg with
     | some grid => .next (analyze s (thresholdOfImm thr) grid)
     | none => .fault .gridAbsent)

end Sys2Proof.Machine
end

