-- ==== Sys2Proof/Machine/Dispatch.lean ====
section
/-! DEFINITION. One arm for each command (R82). -/

namespace Sys2Proof.Machine

def exec (i : Instr) (s : State) : Host.Outcome State Fault Refusal :=
  match i with
  | .acq => Sys2Proof.Machine.execAcq s
  | .val => Sys2Proof.Machine.execVal s
  | .dec => Sys2Proof.Machine.execDec s
  | .ana thr => Sys2Proof.Machine.execAna thr s
  | .alr => Sys2Proof.Machine.execAlr s
  | .ren => Sys2Proof.Machine.execRen s
  | .prs => Sys2Proof.Machine.execPrs s
  | .endCycle => Sys2Proof.Machine.execEndCycle s
  | .rdr n => Sys2Proof.Machine.execRdr n s
  | .rdt k => Sys2Proof.Machine.execRdt k s

end Sys2Proof.Machine
end

