-- ==== Sys2Proof/Machine/Step.lean ====
section
/-! DEFINITION. One step: the host's next offer, carried out to completion (R80). -/

namespace Sys2Proof.Machine

/-- One step. With nothing offered the block waits and nothing changes (R216, R230). A word is consumed when offered,
decoded, and run; a word that is no command is answered `IllegalCommand` (R84, R85). Reset is applied between commands
(R231). -/
def step (s : State) : Host.Outcome State Fault Refusal :=
  match takeOffer s with
  | none => .next s
  | some (.reset, s1) => .next s1.applyReset
  | some (.command w, s1) =>
    match decode w with
    | .command i => exec i s1
    | .illegal _ => .next s1.illegalWord

/-- `s` with the word of `nbits` bits `w` as what the host offers next (log 1, log 15). -/
def State.withFetchWord (s : State) (nbits w : Nat) : State := s.offerFirst (BitVec.ofNat 32 (w % 2 ^ nbits))

end Sys2Proof.Machine
end

