-- ==== Sys2Proof/Machine/Assembler.lean ====
section
/-! DEFINITION. The assembler's lines (R87) and the pseudo-command `CYCLE` (R88). No step of the machine uses them. -/

namespace Sys2Proof

/-- The command of a format Z mnemonic (T82). -/
def OpZ.instr : OpZ → Instr
  | .acq => .acq
  | .val => .val
  | .dec => .dec
  | .alr => .alr
  | .ren => .ren
  | .prs => .prs
  | .endCycle => .endCycle

/-- The command of a format I mnemonic and its immediate (T82). -/
def OpI.instr (imm : Half) : OpI → Instr
  | .ana => .ana imm
  | .rdr => .rdr imm
  | .rdt => .rdt imm

/-- The commands a line stands for: one, or the eight of `CYCLE thr` in their order (R88). -/
def AsmLine.expand : AsmLine → List Instr
  | .plain op => [op.instr]
  | .withImm op imm => [op.instr (BitVec.ofNat 16 imm)]
  | .cycle thr => [.acq, .val, .dec, .ana (BitVec.ofNat 16 thr), .alr, .ren, .prs, .endCycle]

/-- The words a well-formed line assembles to, and nothing for an ill-formed one (R87, R88). -/
def AsmLine.assemble (l : AsmLine) : Option (List Word) :=
  if l.wellFormed then some (l.expand.map encode) else none

/-- The decimal digits, each at the place that is its value. -/
def decimalDigits : List Char := "0123456789".toList

/-- The hexadecimal digits, each at the place that is its value. -/
def hexadecimalDigits : List Char := "0123456789ABCDEF".toList

/-- The number a numeral stands for, most significant digit first; nothing where a character is no digit. The base is
the number of digits there are. -/
def numeralValue (digits : List Char) (text : List Char) : Option Nat :=
  (text.mapM digits.idxOf?).map (List.foldl (fun acc place => digits.length * acc + place) 0)

/-- An integer, decimal or `0x` hexadecimal (R87), hexadecimal digits in either case (log 11). -/
def parseInteger (text : List Char) : Option Nat :=
  match text with
  | [] | ['0', 'x'] => none
  | '0' :: 'x' :: places => numeralValue hexadecimalDigits (places.map Char.toUpper)
  | places => numeralValue decimalDigits places

/-- The text of a line before its comment (R87). -/
def dropComment : List Char → List Char
  | [] => []
  | c :: cs => if c = ';' then [] else c :: dropComment cs

/-- A line without the blanks that stand before its comment or its end (log 11). -/
def trimRight : List Char → List Char
  | [] => []
  | c :: cs =>
    match trimRight cs with
    | [] => if c = ' ' then [] else [c]
    | rest => c :: rest

/-- The text up to the first blank, and what follows the blank if there is one. -/
def splitBlank : List Char → List Char × Option (List Char)
  | [] => ([], none)
  | c :: cs =>
    if c = ' ' then ([], some cs)
    else ((c :: (splitBlank cs).1), (splitBlank cs).2)

/-- The mnemonics of format Z, in capitals (T82, R87). -/
def mnemonicZ : List Char → Option OpZ
  | ['A', 'C', 'Q'] => some .acq
  | ['V', 'A', 'L'] => some .val
  | ['D', 'E', 'C'] => some .dec
  | ['A', 'L', 'R'] => some .alr
  | ['R', 'E', 'N'] => some .ren
  | ['P', 'R', 'S'] => some .prs
  | ['E', 'N', 'D'] => some .endCycle
  | _ => none

/-- The mnemonics that take an integer: format I and the pseudo-command (T82, R87, R88). -/
def mnemonicImm : List Char → Option (Nat → AsmLine)
  | ['A', 'N', 'A'] => some (.withImm .ana)
  | ['R', 'D', 'R'] => some (.withImm .rdr)
  | ['R', 'D', 'T'] => some (.withImm .rdt)
  | ['C', 'Y', 'C', 'L', 'E'] => some .cycle
  | _ => none

/-- What one line of source reads as (R87). -/
inductive Parsed where
  /-- Nothing but a comment. -/
  | blank
  | line (l : AsmLine)
  | badLine
deriving DecidableEq, Repr

/-- One line of assembler source (R87): a mnemonic, then for format I one space and the integer. -/
def parseLine (text : List Char) : Parsed :=
  match splitBlank (trimRight (dropComment text)) with
  | ([], none) => .blank
  | (name, none) =>
    match mnemonicZ name with
    | some op => .line (.plain op)
    | none => .badLine
  | (name, some operand) =>
    match mnemonicImm name, parseInteger operand with
    | some mk, some n => .line (mk n)
    | _, _ => .badLine

end Sys2Proof
end

