-- ==== Sys2Proof/Safety.lean ====
section
/-! DEFINITION. What the claims call a good state: the invariants at command boundaries (R45), the canonical form of the
address spaces, and the duties of the environment (R236). -/

namespace Sys2Proof.Machine

/-- The stage `st` is `need` or a later one. -/
abbrev Stage.atLeast (st need : Stage) : Prop := need.code.toNat ≤ st.code.toNat

/-- A buffer of `n` elements holds a whole value when `on`, and lists nothing otherwise (R24). -/
def bufferWindow {w : Nat} (n : Nat) (sp : Space w) (on : Prop) : Prop :=
  (on → (Space.contents n sp).isSome) ∧ (¬ on → sp = [])

/-- A register holds a value exactly when `on` (R24). -/
def regWindow {α : Type} (r : Option α) (on : Prop) : Prop := r.isSome ↔ on

/-- The validity windows of table T20, column five (R24, R45 (b)). -/
structure Windows (s : State) : Prop where
  fb : bufferWindow Config.frameBytes s.cyc.fb (s.stage.atLeast .loaded)
  dlen : regWindow s.cyc.dlen (s.stage.atLeast .valid)
  tg : bufferWindow Config.numPixels s.cyc.tg (s.stage.atLeast .decoded)
  selft : regWindow s.cyc.selft (s.stage.atLeast .decoded)
  tmin : regWindow s.cyc.tmin (s.stage.atLeast .analyzed)
  tmax : regWindow s.cyc.tmax (s.stage.atLeast .analyzed)
  hotv : regWindow s.cyc.hotv (s.stage.atLeast .analyzed)
  hotx : regWindow s.cyc.hotx (s.stage.atLeast .analyzed ∧ s.cyc.hotv = some true)
  hoty : regWindow s.cyc.hoty (s.stage.atLeast .analyzed ∧ s.cyc.hotv = some true)
  occ : regWindow s.cyc.occ (s.stage.atLeast .analyzed)
  span : regWindow s.cyc.span (s.stage.atLeast .analyzed)
  gray : bufferWindow Config.numPixels s.cyc.gray (s.stage.atLeast .rendered)
  color : bufferWindow Config.numPixels s.cyc.color (s.stage.atLeast .rendered)
  disp : bufferWindow (s.cfg.dispW * s.cfg.dispH) s.cyc.disp (s.stage.atLeast .rendered)
  ovCt : regWindow s.cyc.ovCt (s.stage.atLeast .rendered)
  ovHv : regWindow s.cyc.ovHv (s.stage.atLeast .rendered)
  ovHx : regWindow s.cyc.ovHx (s.stage.atLeast .rendered ∧ s.cyc.ovHv = some true)
  ovHy : regWindow s.cyc.ovHy (s.stage.atLeast .rendered ∧ s.cyc.ovHv = some true)
  ovHt : regWindow s.cyc.ovHt (s.stage.atLeast .rendered ∧ s.cyc.ovHv = some true)

/-- The ranges of the detection registers (R45 (c), R139). They hold of the values the registers hold. -/
structure DetectionRange (s : State) : Prop where
  ordered : ∀ a b : Half, s.cyc.tmin = some a → s.cyc.tmax = some b → a.toNat ≤ b.toNat
  ceiling : ∀ b : Half, s.cyc.tmax = some b → b.toNat ≤ Config.maxLimit
  span : ∀ d : Half, s.cyc.span = some d → 1 ≤ d.toNat ∧ d.toNat ≤ Config.maxLimit
  row : ∀ y : BitVec 5, s.cyc.hoty = some y → y.toNat < Config.height
  least : ∀ (a : Half) (i : Nat) (t : Half), s.cyc.tmin = some a → Space.read s.cyc.tg i = some t → a.toNat ≤ t.toNat

/-- The frame in `FB` was accepted (R45 (d)), and `DLEN` is its declared length (R29). -/
def frameAccepted (s : State) : Prop :=
  s.stage.atLeast .valid → ∀ frame, Space.contents Config.frameBytes s.cyc.fb = some frame →
    headerOk s.cfg.sentinel frame = true ∧ checksum frame = trailingWord frame ∧
    s.cyc.dlen = some (declaredLength frame)

/-- `TG` and `SELFT` are what `FB` decodes to (R45 (e)). -/
def gridDecoded (s : State) : Prop :=
  s.stage.atLeast .decoded → ∀ frame, Space.contents Config.frameBytes s.cyc.fb = some frame →
    s.cyc.tg = Space.fill (samples frame) ∧ s.cyc.selft = some (trailingWord frame)

/-- The invariants of R45 at command boundaries, with `STATUS` below 8 (R25). -/
structure Inv (s : State) : Prop where
  /-- R45 (a). -/
  actLow : s.act = false
  /-- R25. -/
  status : s.status.toNat < 8
  windows : Windows s
  detection : DetectionRange s
  frame : frameAccepted s
  grid : gridDecoded s
  /-- R45 (f). -/
  lastTrig : s.lastTrig = 0 ∨ s.lastTrig ∈ s.env.clockGiven

/-- Every address space is in canonical form, with no index outside its range (table T50). -/
structure Canonical (s : State) : Prop where
  fb : Memory.wf s.cyc.fb
  tg : Space.wf s.cyc.tg ∧ ∀ c ∈ s.cyc.tg, c.1 < Config.numPixels
  gray : Space.wf s.cyc.gray ∧ ∀ c ∈ s.cyc.gray, c.1 < Config.numPixels
  color : Space.wf s.cyc.color ∧ ∀ c ∈ s.cyc.color, c.1 < Config.numPixels
  disp : Space.wf s.cyc.disp ∧ ∀ c ∈ s.cyc.disp, c.1 < s.cfg.dispW * s.cfg.dispH

/-- The duties of the environment (R236 (b) and (c)): the clock answers still to come do not decrease and are below
neither `LAST_TRIG` nor the last answer given (R11), and no read returns more than 1544 bytes (R10). -/
structure EnvDuty (s : State) : Prop where
  clockSorted : s.env.clock.Pairwise (· ≤ ·)
  clockAhead : ∀ t ∈ s.env.clock, s.lastTrig ≤ t ∧ s.env.clockGiven.headD 0 ≤ t
  readBound : ∀ bs ∈ s.env.reads, bs.length ≤ Config.frameBytes

end Sys2Proof.Machine
end

