-- ==== Sys2Proof/Certificates/Slice0/Obligations.lean ====
section
/-! DEFINITION. The statements for the provers. Numbers are written out from the spec and not taken from Config, so that
a wrong constant of the model makes a statement false. -/

open Sys2Proof Sys2Proof.Machine

/-! ## Encoding (30_encoding.md) -/

/-- Decoding the word of a well-formed command gives the command back, with every operand (30_encoding.md sections 3, 4). -/
def Obligations.DecodeOfEncode : Prop := ∀ i : Instr, i.wellFormed = true → decode (encode i) = .command i

/-- A word that decodes to a command is that command's word: no command has two words (30_encoding.md section 6). -/
def Obligations.EncodeOfDecode : Prop := ∀ (w : Word) (i : Instr), decode w = .command i → encode i = w

/-- R84: the decoder's pseudocode, on `op = w[31:24]`, `rsv = w[23:16]`, `imm16 = w[15:0]` as numbers. It takes the word
and nothing else, and it decodes RDR and RDT for every immediate; one out of range answers `BadIndex`. -/
def Obligations.DecodeFollowsPseudocode : Prop :=
  ∀ w : Word,
    (w.toNat / 65536 % 256 ≠ 0 → ∃ why, decode w = .illegal why) ∧
    (w.toNat / 65536 % 256 = 0 →
      (∀ p ∈ [(0x01, Instr.acq), (0x02, .val), (0x03, .dec), (0x05, .alr), (0x06, .ren), (0x07, .prs), (0x08, .endCycle)],
        w.toNat / 16777216 = p.1 →
          (w.toNat % 65536 = 0 → decode w = .command p.2) ∧
          (w.toNat % 65536 ≠ 0 → ∃ why, decode w = .illegal why)) ∧
      (w.toNat / 16777216 = 0x04 → decode w = .command (.ana (BitVec.ofNat 16 (w.toNat % 65536)))) ∧
      (w.toNat / 16777216 = 0x10 → decode w = .command (.rdr (BitVec.ofNat 16 (w.toNat % 65536)))) ∧
      (w.toNat / 16777216 = 0x11 → decode w = .command (.rdt (BitVec.ofNat 16 (w.toNat % 65536)))) ∧
      (w.toNat / 16777216 ∉ [0x01, 0x02, 0x03, 0x04, 0x05, 0x06, 0x07, 0x08, 0x10, 0x11] →
        ∃ why, decode w = .illegal why)) ∧
    (∀ (s : State) (n : Half), 17 < n.toNat →
      exec (.rdr n) s = .next { s with responses := s.responses ++ [⟨.badIndex, 0⟩] }) ∧
    (∀ (s : State) (i : Half), 767 < i.toNat →
      exec (.rdt i) s = .next { s with responses := s.responses ++ [⟨.badIndex, 0⟩] })

/-- Table T82: a word is the command of a row exactly when `w & mask == match`, and then its low half is the operand. -/
def Obligations.DecodeAgreesWithMasks : Prop :=
  ∀ w : Word,
    (∀ p ∈ [(0x01000000#32, Instr.acq), (0x02000000#32, .val), (0x03000000#32, .dec), (0x05000000#32, .alr),
        (0x06000000#32, .ren), (0x07000000#32, .prs), (0x08000000#32, .endCycle)],
      (decode w = .command p.2 ↔ w &&& 0xFFFFFFFF#32 = p.1)) ∧
    (∀ p ∈ [(0x04000000#32, Instr.ana), (0x10000000#32, .rdr), (0x11000000#32, .rdt)], ∀ imm : Half,
      (decode w = .command (p.2 imm) ↔ w &&& 0xFFFF0000#32 = p.1 ∧ w &&& 0x0000FFFF#32 = imm.setWidth 32))

/-- Of the 2^32 words exactly 7 + 3*65536 are commands (30_encoding.md section 6). -/
def Obligations.CommandWordCount : Prop := {w : Word | ∃ i, decode w = .command i}.ncard = 196615

/-- A few words written out from the encoding, and a few that are no command (30_encoding.md section 7). -/
def Obligations.SampleWordsDecode : Prop :=
  decode 0x01000000 = .command .acq ∧ decode 0x04000BB8 = .command (.ana 3000) ∧
  decode 0x10000007 = .command (.rdr 7) ∧ decode 0x11000190 = .command (.rdt 400) ∧
  decode 0x0400FFFF = .command (.ana 65535) ∧ decode 0x08000000 = .command .endCycle ∧
  decode 0x00000000 = .illegal .unknownOp ∧ decode 0x01000001 = .illegal .immediateNotZero ∧
  decode 0x04010BB8 = .illegal .reservedNotZero

/-- The pseudo-command `CYCLE thr` assembles to its eight words in order (30_encoding.md section 7). -/
def Obligations.CycleExpansion : Prop :=
  ∀ thr : Nat, thr < 65536 →
    (AsmLine.cycle thr).assemble =
      some [0x01000000, 0x02000000, 0x03000000, BitVec.ofNat 32 (0x04000000 + thr), 0x05000000, 0x06000000,
        0x07000000, 0x08000000]

/-! ## The step -/

/-- A step runs the decoded command, on the state with the word consumed and nothing else changed (30_encoding.md
section 1). The list of offers is the model's form of the command port (log 1). -/
def Obligations.StepRunsOfferedCommand : Prop :=
  ∀ (s : State) (w : Word) (rest : List Offer) (i : Instr),
    s.env.offered = .command w :: rest → decode w = .command i → i.wellFormed = true →
      step s = exec i { s with env := { s.env with offered := rest } }

/-- R202, R214: a word that is no command writes `STATUS <- IllegalCommand`, answers `(IllegalCommand, 0)`, and has no
other effect; the word is consumed and not recorded. The list of offers is the model's form of the port (log 1). -/
def Obligations.IllegalWordAnswered : Prop :=
  ∀ (s : State) (w : Word) (rest : List Offer) (why : Illegal),
    s.env.offered = .command w :: rest → decode w = .illegal why →
      step s = .next { s with
        env := { s.env with offered := rest }
        status := 6
        responses := s.responses ++ [⟨.illegalCommand, 0⟩] }

/-- THE MODEL'S CHOICE (log 1, log 8): with nothing offered a step changes nothing; an offered reset puts the block and its
output to table T43 and leaves the parameters and the environment's answers as they are. -/
def Obligations.WaitingAndReset : Prop :=
  ∀ s : State,
    (s.env.offered = [] → step s = .next s) ∧
    (∀ rest, s.env.offered = .reset :: rest →
      step s = .next
        { stage := .idle, status := 0, act := false, lastTrig := 0, cyc := Cycle.empty, cfg := s.cfg,
          env := { s.env with offered := rest }, events := [], responses := [] })

/-- R43, table T43: the state after reset. -/
def Obligations.ResetValues : Prop :=
  State.reset.stage = .idle ∧ State.reset.status = 0 ∧ State.reset.act = false ∧ State.reset.lastTrig = 0 ∧
  State.reset.events = [] ∧
  State.reset.cyc =
    { fb := [], dlen := none, tg := [], selft := none, tmin := none, tmax := none, hotv := none, hotx := none,
      hoty := none, occ := none, span := none, gray := [], color := [], disp := [], ovCt := none, ovHv := none,
      ovHx := none, ovHy := none, ovHt := none }

/-! ## The environment (the model's form of it) -/

/-- THE MODEL'S CHOICE (logs 2, 3, 4): an answer the state lists is the one given, and is used up (log 2); where none is
listed one free value is drawn (log 2), a read of at most 1544 bytes (log 4), a clock answer below neither `LAST_TRIG` nor
the last answer given (log 3). A call changes the model's record of the environment and nothing of the block. -/
def Obligations.EnvironmentAnswers : Prop :=
  ∀ s : State,
    (∀ p ps, s.env.pending = p :: ps → sensorPending s = (p, { s with env := { s.env with pending := ps } })) ∧
    (∀ bs rest, s.env.reads = bs :: rest → sensorRead s = (bs, { s with env := { s.env with reads := rest } })) ∧
    (∀ t ts, s.env.clock = t :: ts →
      clockNow s = (t, { s with env := { s.env with clock := ts, clockGiven := t :: s.env.clockGiven } })) ∧
    (s.env.pending = [] → ∃ p, sensorPending s = (p, { s with env := { s.env with freeIdx := s.env.freeIdx + 1 } })) ∧
    (s.env.reads = [] → ∃ bs, bs.length ≤ 1544 ∧
      sensorRead s = (bs, { s with env := { s.env with freeIdx := s.env.freeIdx + 1 } })) ∧
    (s.env.clock = [] → ∃ t, s.lastTrig ≤ t ∧ s.env.clockGiven.headD 0 ≤ t ∧
      clockNow s =
        (t, { s with env := { s.env with freeIdx := s.env.freeIdx + 1, clockGiven := t :: s.env.clockGiven } }))

/-! ## ACQ (40_frame_acquire_validate.md section 1) -/

/-- R101: every outcome of `ACQ` but the read of more than 1544 bytes, which the contract excludes. `p` is the answer of
the one `SensorPending()`, `bs` the bytes of the one `SensorRead(1544)`, made only when `p` is true. -/
def Obligations.AcqOutcomes : Prop :=
  encode .acq = 0x01000000 ∧
  ∀ s : State,
    (s.stage ≠ .idle →
      exec .acq s = .next { s with status := 5, responses := s.responses ++ [⟨.badStage, 0⟩] }) ∧
    ∀ p s1, s.stage = .idle → sensorPending s = (p, s1) →
      (p = false →
        exec .acq s = .next { s1 with status := 1, responses := s.responses ++ [⟨.noData, 0⟩] }) ∧
      (∀ bs s2, p = true → sensorRead s1 = (bs, s2) →
        (bs.length < 1544 →
          exec .acq s = .next { s2 with status := 2, responses := s.responses ++ [⟨.incompleteFrame, 0⟩] }) ∧
        (bs.length = 1544 →
          exec .acq s = .next { s2 with
            stage := .loaded
            status := 0
            cyc := { s.cyc with fb := Space.fill bs }
            responses := s.responses ++ [⟨.ok, 0⟩] }))

/-- After `ACQ` answers `OK`, byte `k` of `FB` is the `k`-th byte returned, for every `k`, and no other byte holds a value;
every other register and buffer is unchanged (20_memory.md section 1, 10_state.md section 4). -/
def Obligations.AcqStoresBytesInOrder : Prop :=
  ∀ (s s1 s2 : State) (bs : List Byte),
    s.stage = .idle → sensorPending s = (true, s1) → sensorRead s1 = (bs, s2) → bs.length = 1544 →
      ∃ t, exec .acq s = .next t ∧ (∀ k, Space.read t.cyc.fb k = bs[k]?) ∧ Memory.wf t.cyc.fb ∧
        t = { s2 with
          stage := .loaded
          status := 0
          cyc := { s.cyc with fb := t.cyc.fb }
          responses := s.responses ++ [⟨.ok, 0⟩] }

/-- THE MODEL'S READING (log 4) of U13 in 93_implementation_defined.md: a listed read of more than 1544 bytes, where data
is pending, is refused. -/
def Obligations.AcqRefusesLongRead : Prop :=
  ∀ (s s1 : State) (bs : List Byte) (rest : List (List Byte)),
    s.stage = .idle → sensorPending s = (true, s1) → s.env.reads = bs :: rest → 1544 < bs.length →
      exec .acq s = .refused .sensorReadTooLong

/-! ## VAL (40_frame_acquire_validate.md section 2) -/

/-- R105: every outcome of `VAL`, with the checksum as the sum of `LE16(FB, 2k)` for `k` in 0..770 modulo 65536. -/
def Obligations.ValOutcomes : Prop :=
  encode .val = 0x02000000 ∧
  ∀ s : State,
    (s.stage ≠ .loaded →
      exec .val s = .next { s with status := 5, responses := s.responses ++ [⟨.badStage, 0⟩] }) ∧
    ∀ frame : List Byte, s.stage = .loaded → Space.contents 1544 s.cyc.fb = some frame →
      ((frame.getD 0 0 ≠ s.cfg.sentinel ∨ frame.getD 1 0 ≠ s.cfg.sentinel) →
        exec .val s = .next { s with
          stage := .idle, cyc := Cycle.empty, status := 3, responses := s.responses ++ [⟨.invalidHeader, 0⟩] }) ∧
      (frame.getD 0 0 = s.cfg.sentinel → frame.getD 1 0 = s.cfg.sentinel →
        (∑ k ∈ Finset.range 771, (le16At frame (2 * k)).toNat) % 65536 ≠ (le16At frame 1542).toNat →
        exec .val s = .next { s with
          stage := .idle, cyc := Cycle.empty, status := 4, responses := s.responses ++ [⟨.checksumMismatch, 0⟩] }) ∧
      (frame.getD 0 0 = s.cfg.sentinel → frame.getD 1 0 = s.cfg.sentinel →
        (∑ k ∈ Finset.range 771, (le16At frame (2 * k)).toNat) % 65536 = (le16At frame 1542).toNat →
        exec .val s = .next { s with
          stage := .valid
          cyc := { s.cyc with dlen := some (le16At frame 2) }
          status := 0
          responses := s.responses ++ [⟨.ok, 0⟩] })

/-- Flipping one bit of a frame that `VAL` accepts: in bytes 0 and 1 it gives `InvalidHeader`, in any other byte, the
trailing word included, `ChecksumMismatch`, with certainty (40_frame_acquire_validate.md section 2; 90 C6). -/
def Obligations.SingleBitFlipDetected : Prop :=
  ∀ (s : State) (frame : List Byte) (k j : Nat),
    s.stage = .loaded → frame.length = 1544 →
    headerOk s.cfg.sentinel frame = true → checksum frame = trailingWord frame →
    k < 1544 → j < 8 →
    ∀ s' : State, s' = { s with
        cyc := { s.cyc with fb := Space.fill (frame.set k (frame.getD k 0 ^^^ BitVec.twoPow 8 j)) } } →
      exec .val s' = .next { s with
        stage := .idle
        cyc := Cycle.empty
        status := if k < 2 then 3 else 4
        responses := s.responses ++ [⟨if k < 2 then .invalidHeader else .checksumMismatch, 0⟩] }

/-- Changes that cancel are not seen: adding `d` to one summed word and subtracting it from another leaves the sum
unchanged (40_frame_acquire_validate.md section 2). -/
def Obligations.CancellingChangesUnseen : Prop :=
  ∀ (f g : List Byte) (a b : Nat) (d : Half),
    f.length = 1544 → g.length = 1544 → a < 771 → b < 771 → a ≠ b →
    le16At g (2 * a) = le16At f (2 * a) + d → le16At g (2 * b) = le16At f (2 * b) - d →
    (∀ k, k < 771 → k ≠ a → k ≠ b → le16At g (2 * k) = le16At f (2 * k)) →
      checksum g = checksum f

/-- For every choice of bytes [0,1542) there is exactly one trailing word that makes the frame pass the checksum check
(40_frame_acquire_validate.md R110). -/
def Obligations.TrailingWordUnique : Prop :=
  ∀ body : List Byte, body.length = 1542 →
    ∃! q : Half, checksum (body ++ [q.setWidth 8, (q >>> 8).setWidth 8]) =
      trailingWord (body ++ [q.setWidth 8, (q >>> 8).setWidth 8])

/-! ## DEC (41_decode.md) -/

/-- R121: `TG[i] = LE16(FB, 4+2i)` for `i` in 0..767 and `SELFT = LE16(FB, 1542)`; nothing else is written. -/
def Obligations.DecOutcome : Prop :=
  encode .dec = 0x03000000 ∧
  ∀ s : State,
    (s.stage ≠ .valid →
      exec .dec s = .next { s with status := 5, responses := s.responses ++ [⟨.badStage, 0⟩] }) ∧
    ∀ frame : List Byte, s.stage = .valid → Space.contents 1544 s.cyc.fb = some frame →
      exec .dec s = .next { s with
        stage := .decoded
        cyc := { s.cyc with
          tg := Space.fill ((List.range 768).map fun i => le16At frame (4 + 2 * i))
          selft := some (le16At frame 1542) }
        status := 0
        responses := s.responses ++ [⟨.ok, 0⟩] }

/-- In every frame that `VAL` accepts, the self-temperature `DEC` then writes equals the checksum sum (41_decode.md R122,
20_memory.md R58: the aliasing). -/
def Obligations.SelfTemperatureIsChecksum : Prop :=
  ∀ (s t : State) (frame : List Byte),
    s.stage = .loaded → Space.contents 1544 s.cyc.fb = some frame → exec .val s = .next t → t.stage = .valid →
      ∃ u, exec .dec t = .next u ∧ ∃ v, u.cyc.selft = some v ∧
        v.toNat = (∑ k ∈ Finset.range 771, (le16At frame (2 * k)).toNat) % 65536

/-- Property P1: a frame built from the sentinel, any declared length, any 768 samples and any word at 1540, with the
matching sum behind them, is accepted, and `DEC` reproduces the samples exactly (41_decode.md R123). -/
def Obligations.DecodeRoundTrip : Prop :=
  ∀ (s : State) (len rsvd ck : Half) (px : List Half), px.length = 768 → s.stage = .loaded →
    ck = (s.cfg.sentinel ++ s.cfg.sentinel) + len + px.foldl (· + ·) 0 + rsvd →
    s.cyc.fb = Space.fill
      ((((s.cfg.sentinel ++ s.cfg.sentinel : Half) :: len :: px) ++ [rsvd, ck]).flatMap
        fun v : Half => [v.setWidth 8, (v >>> 8).setWidth 8]) →
      ∃ t u, exec .val s = .next t ∧ exec .dec t = .next u ∧ t.stage = .valid ∧ u.stage = .decoded ∧
        t.cyc.dlen = some len ∧ (∀ i, Space.read u.cyc.tg i = px[i]?) ∧ u.cyc.selft = some ck

/-! ## ANA (42_statistics.md) -/

/-- `ANA` out of stage, and its frame: it writes the seven detection registers, `STAGE` and `STATUS`, and nothing else, for
every threshold and grid (42_statistics.md section on R131). -/
def Obligations.AnaFrame : Prop :=
  ∀ (s : State) (thr : Half),
    encode (.ana thr) = BitVec.ofNat 32 (0x04000000 + thr.toNat) ∧
    (s.stage ≠ .decoded →
      exec (.ana thr) s = .next { s with status := 5, responses := s.responses ++ [⟨.badStage, 0⟩] }) ∧
    ∀ grid, s.stage = .decoded → Space.contents 768 s.cyc.tg = some grid →
      ∃ (a b d : Half) (o h : Bool) (x y : Option (BitVec 5)),
        exec (.ana thr) s = .next { s with
          stage := .analyzed
          cyc := { s.cyc with
            tmin := some a, tmax := some b, occ := some o, hotv := some h, hotx := x, hoty := y, span := some d }
          status := 0
          responses := s.responses ++ [⟨.ok, 0⟩] }

/-- R139: with `vmin`, `vmax` the smallest and largest sample, `TMIN = min(30000, vmin)` and `TMAX = min(30000, vmax)`, and
the ranges that follow. -/
def Obligations.AnaExtremes : Prop :=
  ∀ (s : State) (thr : Half) (grid : List Half) (vmin vmax : Nat),
    s.stage = .decoded → Space.contents 768 s.cyc.tg = some grid →
    (∀ v ∈ grid, vmin ≤ v.toNat) → (∃ v ∈ grid, v.toNat = vmin) →
    (∀ v ∈ grid, v.toNat ≤ vmax) → (∃ v ∈ grid, v.toNat = vmax) →
      ∃ (t : State) (a b d : Half), exec (.ana thr) s = .next t ∧
        t.cyc.tmin = some a ∧ t.cyc.tmax = some b ∧ t.cyc.span = some d ∧
        a.toNat = min 30000 vmin ∧ b.toNat = min 30000 vmax ∧
        a.toNat ≤ b.toNat ∧ b.toNat ≤ 30000 ∧ (∀ v ∈ grid, a.toNat ≤ v.toNat) ∧ 1 ≤ d.toNat ∧ d.toNat ≤ 30000

/-- The span: 100 when the two clamped extremes are equal, otherwise their difference (42_statistics.md R136). -/
def Obligations.AnaSpan : Prop :=
  ∀ (s : State) (thr : Half) (grid : List Half),
    s.stage = .decoded → Space.contents 768 s.cyc.tg = some grid →
      ∃ (t : State) (a b d : Half), exec (.ana thr) s = .next t ∧
        t.cyc.tmin = some a ∧ t.cyc.tmax = some b ∧ t.cyc.span = some d ∧
        (a = b → d = 100) ∧ (a ≠ b → d.toNat + a.toNat = b.toNat)

/-- R141: `HOTV = 0` exactly when all 768 values are 0, and then `TMIN = TMAX = 0`, `OCC = 0`, `SPAN = 100`; in every other
grid `HOTV = 1`. -/
def Obligations.AnaNoHottestPixel : Prop :=
  ∀ (s : State) (thr : Half) (grid : List Half),
    s.stage = .decoded → Space.contents 768 s.cyc.tg = some grid →
      ∃ t, exec (.ana thr) s = .next t ∧
        ((∀ v ∈ grid, v = 0) →
          t.cyc.hotv = some false ∧ t.cyc.hotx = none ∧ t.cyc.hoty = none ∧ t.cyc.tmin = some 0 ∧
          t.cyc.tmax = some 0 ∧ t.cyc.occ = some false ∧ t.cyc.span = some 100) ∧
        ((∃ v ∈ grid, v ≠ 0) → t.cyc.hotv = some true)

/-- R142: with a largest value above 0 and at most 30000 the hottest pixel is the FIRST index that holds it; with one above
30000 it is the LAST index whose value exceeds 30000. `i` is that index, `(HOTX, HOTY) = (i mod 32, i div 32)`. -/
def Obligations.AnaHottestPixel : Prop :=
  ∀ (s : State) (thr : Half) (grid : List Half) (i : Nat) (v : Half),
    s.stage = .decoded → Space.contents 768 s.cyc.tg = some grid → grid[i]? = some v →
    (0 < v.toNat ∧ v.toNat ≤ 30000 ∧ (∀ u ∈ grid, u.toNat ≤ v.toNat) ∧
        (∀ k u, k < i → grid[k]? = some u → u.toNat < v.toNat) ∨
      30000 < v.toNat ∧ (∀ k u, i < k → grid[k]? = some u → u.toNat ≤ 30000)) →
      ∃ t x y, exec (.ana thr) s = .next t ∧ t.cyc.hotv = some true ∧ t.cyc.hotx = some x ∧ t.cyc.hoty = some y ∧
        x.toNat = i % 32 ∧ y.toNat = i / 32

/-- R143: below the ceiling `OCC = 1` exactly when some pixel exceeds the threshold; at or above it `OCC = 0` always. -/
def Obligations.AnaOccupancy : Prop :=
  ∀ (s : State) (thr : Half) (grid : List Half),
    s.stage = .decoded → Space.contents 768 s.cyc.tg = some grid →
      ∃ t o, exec (.ana thr) s = .next t ∧ t.cyc.occ = some o ∧
        (thr.toNat < 30000 → (o = true ↔ ∃ v ∈ grid, thr.toNat < v.toNat)) ∧
        (30000 ≤ thr.toNat → o = false)

/-- R140: pixel by pixel in row-major order, the running maximum does not decrease, the running minimum does not increase,
and `occ` is not cleared. -/
def Obligations.ScanMonotone : Prop :=
  ∀ (thr : Nat) (grid : List Half) (k : Nat),
    (scanGrid thr (grid.take k)).tmax ≤ (scanGrid thr (grid.take (k + 1))).tmax ∧
    (scanGrid thr (grid.take (k + 1))).tmin ≤ (scanGrid thr (grid.take k)).tmin ∧
    ((scanGrid thr (grid.take k)).occ = true → (scanGrid thr (grid.take (k + 1))).occ = true)

/-- One pixel of the scan: both tests strict and independent, the occupancy test only at a new maximum and on its clamped
value (42_statistics.md R133, R134, R135, R138). -/
def Obligations.ScanPixelRule : Prop :=
  ∀ (thr : Nat) (a : Scan) (i v : Nat),
    (scanPixel thr a i v).tmin = (if v < a.tmin then max v 0 else a.tmin) ∧
    (v ≤ a.tmax → (scanPixel thr a i v).tmax = a.tmax ∧ (scanPixel thr a i v).hot = a.hot ∧
      (scanPixel thr a i v).occ = a.occ) ∧
    (a.tmax < v → (scanPixel thr a i v).tmax = min v 30000 ∧ (scanPixel thr a i v).hot = some (i % 32, i / 32) ∧
      ((scanPixel thr a i v).occ = true ↔ a.occ = true ∨ thr < min v 30000))

/-- R145: `ANA` uses only `TG` and the threshold: two states that agree on the grid get the same detection registers, the
same stage and the same response, whatever else they hold. -/
def Obligations.AnaDependsOnGridOnly : Prop :=
  ∀ (s s' : State) (thr : Half) (grid : List Half),
    s.stage = .decoded → s'.stage = .decoded → Space.contents 768 s.cyc.tg = some grid → s'.cyc.tg = s.cyc.tg →
      ∃ t t', exec (.ana thr) s = .next t ∧ exec (.ana thr) s' = .next t' ∧
        t.stage = t'.stage ∧ t.status = t'.status ∧ t.cyc.tmin = t'.cyc.tmin ∧ t.cyc.tmax = t'.cyc.tmax ∧
        t.cyc.hotv = t'.cyc.hotv ∧ t.cyc.hotx = t'.cyc.hotx ∧ t.cyc.hoty = t'.cyc.hoty ∧ t.cyc.occ = t'.cyc.occ ∧
        t.cyc.span = t'.cyc.span ∧
        ∃ r, t.responses = s.responses ++ [r] ∧ t'.responses = s'.responses ++ [r]

/-! ## ALR (43_alert.md) -/

/-- R151: every outcome of `ALR` under the clock's duty. `now` is the answer of the one `ClockNow()`. -/
def Obligations.AlrOutcomes : Prop :=
  encode .alr = 0x05000000 ∧
  ∀ s : State,
    (s.stage ≠ .analyzed →
      exec .alr s = .next { s with status := 5, responses := s.responses ++ [⟨.badStage, 0⟩] }) ∧
    ∀ now s1 occ, s.stage = .analyzed → clockNow s = (now, s1) → s.cyc.occ = some occ →
      s.lastTrig.toNat ≤ now.toNat → s.env.clockGiven.headD 0 ≤ now →
      (occ = true → 500 < now.toNat - s.lastTrig.toNat →
        exec .alr s = .next { s1 with
          stage := .alerted
          status := 0
          act := false
          lastTrig := now
          events := s.events ++ [.actSet true, .hold 100, .actSet false]
          responses := s.responses ++ [⟨.ok, 1⟩] }) ∧
      ((occ = false ∨ now.toNat - s.lastTrig.toNat ≤ 500) →
        exec .alr s = .next { s1 with
          stage := .alerted
          status := 0
          responses := s.responses ++ [⟨.ok, 0⟩] })

/-- R153: with occupancy, the pulse fires exactly when the elapsed time, a difference of integers that cannot wrap, is
greater than 500: not at 500, but at 501. -/
def Obligations.AlrStrictCooldown : Prop :=
  ∀ (s s1 : State) (now : Long),
    s.stage = .analyzed → s.cyc.occ = some true → clockNow s = (now, s1) → s.lastTrig ≤ now →
    s.env.clockGiven.headD 0 ≤ now →
      0 ≤ (now.toNat : Int) - s.lastTrig.toNat ∧ (now.toNat : Int) - s.lastTrig.toNat ≤ 2 ^ 64 - 1 ∧
      ∃ t, exec .alr s = .next t ∧
        (t.events = s.events ++ [.actSet true, .hold 100, .actSet false] ↔
          (500 : Int) < (now.toNat : Int) - s.lastTrig.toNat) ∧
        ((now.toNat : Int) - s.lastTrig.toNat = 500 → t.events = s.events ∧ t.lastTrig = s.lastTrig) ∧
        ((now.toNat : Int) - s.lastTrig.toNat = 501 → t.lastTrig = now)

/-- R155: when `OCC = 0` the controller does nothing but sample the clock. -/
def Obligations.AlrWithoutOccupancy : Prop :=
  ∀ (s s1 : State) (now : Long),
    s.stage = .analyzed → s.cyc.occ = some false → clockNow s = (now, s1) → s.lastTrig ≤ now →
    s.env.clockGiven.headD 0 ≤ now →
      exec .alr s = .next { s with
        env := s1.env, stage := .alerted, status := 0, responses := s.responses ++ [⟨.ok, 0⟩] }

/-- THE MODEL'S READING (log 3) of U6 in 93_implementation_defined.md: a clock answer below `LAST_TRIG` is refused. -/
def Obligations.AlrRefusesClockBelowLastTrig : Prop :=
  ∀ (s s1 : State) (now : Long) (occ : Bool),
    s.stage = .analyzed → s.cyc.occ = some occ → clockNow s = (now, s1) → now < s.lastTrig →
      exec .alr s = .refused .clockBelowLastTrig

/-- A clock answer below the last one given, a wrap past `2^64 - 1` among the cases, breaks the duty and has no step (U6 in
93_implementation_defined.md, D12 in 92_eei_decisions.md). THE MODEL'S CHOICE (log 3): its name, and that an answer below
`LAST_TRIG` too is refused under the other name. -/
def Obligations.AlrRefusesDecreasingClock : Prop :=
  ∀ (s s1 : State) (now : Long) (occ : Bool),
    s.stage = .analyzed → s.cyc.occ = some occ → clockNow s = (now, s1) → s.lastTrig ≤ now →
    now < s.env.clockGiven.headD 0 →
      exec .alr s = .refused .clockDecreased

/-- Two occupancy events: the first fires at `t1`, nothing fires between, the second is sampled at `t2 >= t1`, not below the
last clock answer before it; it fires exactly when `t2 - t1 > 500` (43_alert.md R157, property P5). -/
def Obligations.DebounceTwoAlerts : Prop :=
  ∀ (s s' u u1 : State) (t1 t2 : Long),
    s.stage = .analyzed → exec .alr s = .next s' → s'.responses = s.responses ++ [⟨.ok, 1⟩] → (clockNow s).1 = t1 →
    u.stage = .analyzed → u.cyc.occ = some true → u.lastTrig = s'.lastTrig → clockNow u = (t2, u1) →
    t1.toNat ≤ t2.toNat → u.env.clockGiven.headD 0 ≤ t2 →
      ∃ u', exec .alr u = .next u' ∧
        (t2.toNat - t1.toNat ≤ 500 → u'.events = u.events ∧ u'.lastTrig = t1) ∧
        (500 < t2.toNat - t1.toNat →
          u'.events = u.events ++ [.actSet true, .hold 100, .actSet false] ∧ u'.lastTrig = t2)

/-- Nothing but a firing `ALR` and reset writes `LAST_TRIG`, and a firing raises it by more than 500 (43_alert.md R158). -/
def Obligations.LastTrigWrittenByFiringOnly : Prop :=
  ∀ s t : State, step s = .next t → t.lastTrig ≠ s.lastTrig →
    (∃ rest, s.env.offered = .reset :: rest ∧ t.lastTrig = 0) ∨
    (∃ rest, s.env.offered = .command 0x05000000 :: rest ∧ s.stage = .analyzed ∧ s.cyc.occ = some true ∧
      s.lastTrig.toNat + 500 < t.lastTrig.toNat ∧
      t.events = s.events ++ [.actSet true, .hold 100, .actSet false])

/-! ## REN and PRS (44_render.md) -/

/-- R166: every outcome of `REN` with its inputs held and in range: `GRAY`, `COLOR`, `DISP` element by element, the overlay
registers, and nothing else. `mark` is the hottest pixel `(x, y, TG[32*y + x])` if there is one. -/
def Obligations.RenOutcomes : Prop :=
  encode .ren = 0x06000000 ∧
  ∀ s : State,
    (s.stage ≠ .alerted →
      exec .ren s = .next { s with status := 5, responses := s.responses ++ [⟨.badStage, 0⟩] }) ∧
    ∀ (grid : List Half) (tmin span : Half) (mark : Option (BitVec 5 × BitVec 5 × Half)),
      s.stage = .alerted → Space.contents 768 s.cyc.tg = some grid →
      s.cyc.tmin = some tmin → s.cyc.span = some span → 1 ≤ span.toNat → (∀ v ∈ grid, tmin.toNat ≤ v.toNat) →
      (mark = none ∧ s.cyc.hotv = some false ∨
        ∃ x y v, mark = some (x, y, v) ∧ s.cyc.hotv = some true ∧ s.cyc.hotx = some x ∧ s.cyc.hoty = some y ∧
          grid[32 * y.toNat + x.toNat]? = some v) →
      ∃ (gray : Space 8) (color disp : Space 24),
        exec .ren s = .next { s with
          stage := .rendered
          cyc := { s.cyc with
            gray := gray
            color := color
            disp := disp
            ovCt := grid[400]?
            ovHv := some mark.isSome
            ovHx := mark.map fun m => BitVec.ofNat 16 (m.1.toNat * s.cfg.sx)
            ovHy := mark.map fun m => BitVec.ofNat 16 (m.2.1.toNat * s.cfg.sy)
            ovHt := mark.map fun m => m.2.2 }
          status := 0
          responses := s.responses ++ [⟨.ok, 0⟩] } ∧
        (∀ i v, grid[i]? = some v →
          ∃ g : Byte, g.toNat = min 255 ((2 * 255 * (v.toNat - tmin.toNat) + span.toNat) / (2 * span.toNat)) ∧
            Space.read gray i = some g ∧ Space.read color i = some (s.cfg.colour g)) ∧
        (∀ X Y, X < 32 * s.cfg.sx → Y < 24 * s.cfg.sy →
          Space.read disp (Y * (32 * s.cfg.sx) + X) = Space.read color (Y / s.cfg.sy * 32 + X / s.cfg.sx)) ∧
        (Space.contents 768 gray).isSome ∧ (Space.contents 768 color).isSome ∧
        (Space.contents (32 * s.cfg.sx * (24 * s.cfg.sy)) disp).isSome

/-- The normalisation (44_render.md R168) is the exact rational `255*(t - tmin)/span` rounded to the nearest integer, a tie up, then
limited to 255; no intermediate exceeds 33452850. -/
def Obligations.NormaliseRounding : Prop :=
  ∀ tmin span t : Nat, 1 ≤ span → span ≤ 30000 → tmin ≤ t → t ≤ 65535 →
    normalise tmin span t = min 255 ((2 * 255 * (t - tmin) + span) / (2 * span)) ∧
    ((normalise tmin span t : Nat) : Int) = min 255 ⌊(255 * ((t : ℚ) - tmin)) / span + 1 / 2⌋ ∧
    2 * 255 * (t - tmin) + span ≤ 33452850

/-- The range of the normalisation (44_render.md R170): a pixel equal to `TMIN` gives 0; with `TMAX > TMIN` a pixel at or above `TMAX` gives 255; on a flat result at the
ceiling a raw value `v` gives `min(255, round(255*(v-30000)/100))`, 255 from 30100 on. -/
def Obligations.NormaliseRange : Prop :=
  (∀ tmin span : Nat, 1 ≤ span → normalise tmin span tmin = 0) ∧
  (∀ tmin tmax t : Nat, tmin < tmax → tmax ≤ t → normalise tmin (tmax - tmin) t = 255) ∧
  (∀ v : Nat, 30000 ≤ v → ((normalise 30000 100 v : Nat) : Int) = min 255 ⌊(255 * ((v : ℚ) - 30000)) / 100 + 1 / 2⌋) ∧
  (∀ v : Nat, 30100 ≤ v → normalise 30000 100 v = 255)

/-- Sensor pixel `(x, y)` fills the block of `SX` by `SY` display pixels whose top-left corner is `(x*SX, y*SY)`, every
display pixel lies in exactly one such block, and the display coordinate gives the sensor pixel back (44_render.md R174). -/
def Obligations.UpscaleReplicates : Prop :=
  ∀ (p : Config.Params) (color : List Colour), color.length = 768 →
    (upscale p color).length = 32 * p.sx * (24 * p.sy) ∧
    (∀ x y dx dy, x < 32 → y < 24 → dx < p.sx → dy < p.sy →
      (upscale p color)[(y * p.sy + dy) * (32 * p.sx) + (x * p.sx + dx)]? = color[32 * y + x]? ∧
      (x * p.sx + dx) / p.sx = x ∧ (y * p.sy + dy) / p.sy = y) ∧
    (p.sx = 1 → p.sy = 1 → upscale p color = color)

/-- R180: `PRS` emits exactly one `Present` event with the image and the descriptor as they stand; no buffer changes. -/
def Obligations.PrsOutcome : Prop :=
  encode .prs = 0x07000000 ∧
  ∀ s : State,
    (s.stage ≠ .rendered →
      exec .prs s = .next { s with status := 5, responses := s.responses ++ [⟨.badStage, 0⟩] }) ∧
    ∀ ct hv, s.stage = .rendered → s.cyc.ovCt = some ct → s.cyc.ovHv = some hv →
      (Space.contents (32 * s.cfg.sx * (24 * s.cfg.sy)) s.cyc.disp).isSome →
      exec .prs s = .next { s with
        stage := .presented
        status := 0
        events := s.events ++ [.present s.cyc.disp ⟨ct, hv, s.cyc.ovHx, s.cyc.ovHy, s.cyc.ovHt⟩]
        responses := s.responses ++ [⟨.ok, 0⟩] }

/-! ## END, RDR, RDT (45_sequencer_access.md) -/

/-- R191: `END` answers `OK` in every stage, sets every cycle-local register and buffer to `none` and returns to `IDLE`. -/
def Obligations.EndOutcome : Prop :=
  encode .endCycle = 0x08000000 ∧
  ∀ s : State, exec .endCycle s = .next { s with
    stage := .idle, cyc := Cycle.empty, status := 0, responses := s.responses ++ [⟨.ok, 0⟩] }

/-- R192: `RDR n` answers `BadIndex` above 17, `BadStage` where register `n` of table T46 holds `none`, and otherwise
its value zero-extended; nothing is written, `STATUS` neither. -/
def Obligations.RdrReadsTheRegister : Prop :=
  ∀ (s : State) (n : Half),
    encode (.rdr n) = BitVec.ofNat 32 (0x10000000 + n.toNat) ∧
    (17 < n.toNat →
      exec (.rdr n) s = .next { s with responses := s.responses ++ [⟨.badIndex, 0⟩] }) ∧
    (∀ v : Option Nat,
      ([some s.stage.code.toNat, some s.status.toNat, some s.act.toNat, some s.lastTrig.toNat,
        s.cyc.dlen.map BitVec.toNat, s.cyc.selft.map BitVec.toNat, s.cyc.tmin.map BitVec.toNat,
        s.cyc.tmax.map BitVec.toNat, s.cyc.span.map BitVec.toNat, s.cyc.occ.map Bool.toNat,
        s.cyc.hotv.map Bool.toNat, s.cyc.hotx.map BitVec.toNat, s.cyc.hoty.map BitVec.toNat,
        s.cyc.ovCt.map BitVec.toNat, s.cyc.ovHv.map Bool.toNat, s.cyc.ovHx.map BitVec.toNat,
        s.cyc.ovHy.map BitVec.toNat, s.cyc.ovHt.map BitVec.toNat] : List (Option Nat))[n.toNat]? = some v →
      exec (.rdr n) s = .next { s with
        responses := s.responses ++ [match v with
          | none => ⟨.badStage, 0⟩
          | some a => ⟨.ok, BitVec.ofNat 64 a⟩] })

/-- R193: under the invariants, `RDR` of a register outside its window of table T46 answers `(BadStage, 0)`, and of one
inside it a value; registers 0 to 3 are always inside. -/
def Obligations.RdrOutsideItsWindow : Prop :=
  ∀ (s : State) (n : Half), Inv s → n.toNat ≤ 17 →
    ∀ outside : Prop,
      (outside ↔
        (n.toNat = 4 ∧ s.stage.code.toNat < 2) ∨ (n.toNat = 5 ∧ s.stage.code.toNat < 3) ∨
        (6 ≤ n.toNat ∧ n.toNat ≤ 12 ∧ s.stage.code.toNat < 4) ∨ (13 ≤ n.toNat ∧ s.stage.code.toNat < 6) ∨
        ((n.toNat = 11 ∨ n.toNat = 12) ∧ s.cyc.hotv = some false) ∨ (15 ≤ n.toNat ∧ s.cyc.ovHv = some false)) →
      (outside → exec (.rdr n) s = .next { s with responses := s.responses ++ [⟨.badStage, 0⟩] }) ∧
      (¬ outside → ∃ v, exec (.rdr n) s = .next { s with responses := s.responses ++ [⟨.ok, v⟩] })

/-- R194: `RDT i` answers `BadIndex` above 767, then `BadStage` in stages 0, 1, 2, otherwise `TG[i]` zero-extended; nothing
is written, `STATUS` neither. -/
def Obligations.RdtReadsTheGrid : Prop :=
  ∀ (s : State) (i : Half),
    encode (.rdt i) = BitVec.ofNat 32 (0x11000000 + i.toNat) ∧
    (767 < i.toNat →
      exec (.rdt i) s = .next { s with responses := s.responses ++ [⟨.badIndex, 0⟩] }) ∧
    (i.toNat ≤ 767 → s.stage.code.toNat < 3 →
      exec (.rdt i) s = .next { s with responses := s.responses ++ [⟨.badStage, 0⟩] }) ∧
    (∀ v : Half, i.toNat ≤ 767 → 3 ≤ s.stage.code.toNat → Space.read s.cyc.tg i.toNat = some v →
      exec (.rdt i) s = .next { s with responses := s.responses ++ [⟨.ok, BitVec.ofNat 64 v.toNat⟩] })

/-- After `END` no cycle-local register and no grid value can be read: registers 4 to 17 and pixels 0 to 767 answer
`BadStage`, while registers 0 to 3 answer `OK` (70_reset_and_hazards.md R243). -/
def Obligations.ResultsVanishAtEnd : Prop :=
  ∀ s t : State, exec .endCycle s = .next t →
    (∀ n : Half, 4 ≤ n.toNat → n.toNat ≤ 17 →
      exec (.rdr n) t = .next { t with responses := t.responses ++ [⟨.badStage, 0⟩] }) ∧
    (∀ n : Half, n.toNat ≤ 3 →
      ∃ v, exec (.rdr n) t = .next { t with responses := t.responses ++ [⟨.ok, v⟩] }) ∧
    (∀ i : Half, i.toNat ≤ 767 →
      exec (.rdt i) t = .next { t with responses := t.responses ++ [⟨.badStage, 0⟩] })

/-- From every state, `END` is accepted and after it `ACQ` is not answered `BadStage` (60_exceptions.md R219). -/
def Obligations.EndThenAcqAccepted : Prop :=
  ∀ s : State, ∃ t, exec .endCycle s = .next t ∧ t.stage = .idle ∧
    ∀ u, exec .acq t = .next u → ∃ r, u.responses = t.responses ++ [r] ∧ r.code ≠ .badStage

/-! ## The whole machine -/

/-- The stage changes only as table T23 says, on the word that table names, or by reset (10_state.md R23). -/
def Obligations.StageTransitions : Prop :=
  ∀ s t : State, step s = .next t → t.stage ≠ s.stage →
    (∃ rest, s.env.offered = .reset :: rest ∧ t.stage = .idle) ∨
    ∃ w rest i, s.env.offered = .command w :: rest ∧ decode w = .command i ∧
      ((i = .acq ∧ s.stage = .idle ∧ t.stage = .loaded) ∨
       (i = .val ∧ s.stage = .loaded ∧ (t.stage = .valid ∨ t.stage = .idle)) ∨
       (i = .dec ∧ s.stage = .valid ∧ t.stage = .decoded) ∨
       ((∃ thr, i = .ana thr) ∧ s.stage = .decoded ∧ t.stage = .analyzed) ∨
       (i = .alr ∧ s.stage = .analyzed ∧ t.stage = .alerted) ∨
       (i = .ren ∧ s.stage = .alerted ∧ t.stage = .rendered) ∨
       (i = .prs ∧ s.stage = .rendered ∧ t.stage = .presented) ∨
       (i = .endCycle ∧ t.stage = .idle))

/-- Every command word gets exactly one response and is consumed; `STATUS` becomes the code of that response, except that
`RDR` and `RDT` leave it (10_state.md R25, 30_encoding.md R80). -/
def Obligations.OneResponsePerCommand : Prop :=
  ∀ (s t : State) (w : Word) (rest : List Offer), s.env.offered = .command w :: rest → step s = .next t →
    ∃ r : Response, t.responses = s.responses ++ [r] ∧ t.env.offered = rest ∧
      (((∃ n, decode w = .command (.rdr n)) ∨ (∃ i, decode w = .command (.rdt i))) → t.status = s.status) ∧
      (¬ ((∃ n, decode w = .command (.rdr n)) ∨ (∃ i, decode w = .command (.rdt i))) → t.status = r.code.code)

/-- Output events are only appended, and only by `ALR`, the whole pulse, or by `PRS`, one `Present` of the image as it
stands; every other step but reset produces none (20_memory.md R65, 60_exceptions.md R216, 43_alert.md R152). -/
def Obligations.OutputEventsOnlyFromAlrAndPrs : Prop :=
  ∀ s t : State, step s = .next t → (∀ rest, s.env.offered ≠ .reset :: rest) →
    t.events = s.events ∨
    (∃ rest, s.env.offered = .command 0x05000000 :: rest ∧ s.stage = .analyzed ∧
      t.events = s.events ++ [.actSet true, .hold 100, .actSet false]) ∨
    (∃ rest ov, s.env.offered = .command 0x07000000 :: rest ∧ s.stage = .rendered ∧
      t.events = s.events ++ [.present s.cyc.disp ov] ∧ t.cyc.disp = s.cyc.disp)

/-- A rejected command leaves the actuator, `LAST_TRIG` and the event trace alone; unless `VAL` rejected the frame it leaves
the stage and every cycle-local register too, and a `VAL` rejection sets them all to `none` (60_exceptions.md R218). -/
def Obligations.RejectionFrame : Prop :=
  ∀ (s t : State) (w : Word) (rest : List Offer) (r : Response),
    s.env.offered = .command w :: rest → step s = .next t → t.responses = s.responses ++ [r] → r.code ≠ .ok →
      r.data = 0 ∧ t.act = s.act ∧ t.lastTrig = s.lastTrig ∧ t.events = s.events ∧
      ((r.code = .invalidHeader ∨ r.code = .checksumMismatch) → t.stage = .idle ∧ t.cyc = Cycle.empty) ∧
      (r.code ≠ .invalidHeader → r.code ≠ .checksumMismatch → t.stage = s.stage ∧ t.cyc = s.cyc)

/-- The open parameters never change (00_scope.md R6). -/
def Obligations.ParametersFixed : Prop := ∀ s t : State, step s = .next t → t.cfg = s.cfg

/-- Every step keeps every address space in canonical form (20_memory.md R50; the form is the model's, log 6). -/
def Obligations.CanonicalKept : Prop := ∀ s t : State, Canonical s → step s = .next t → Canonical t

/-- Every step keeps the invariants at command boundaries, from every state that has them (10_state.md R45). -/
def Obligations.InvariantsKept : Prop := ∀ s t : State, Inv s → step s = .next t → Inv t

/-- Every step keeps what the environment owes (70_reset_and_hazards.md R236). -/
def Obligations.EnvironmentDutyKept : Prop := ∀ s t : State, EnvDuty s → step s = .next t → EnvDuty t

/-- The state after reset has the invariants, the canonical form and a dutiful environment, whatever the parameters are
(10_state.md R45, 70_reset_and_hazards.md R236; the empty environment at reset is the model's choice, log 2). -/
def Obligations.ResetIsGood : Prop := Inv State.reset ∧ Canonical State.reset ∧ EnvDuty State.reset

/-- The block never stops: from every state with the invariants, under a dutiful environment, a step answers a next state,
whatever the host offers (60_exceptions.md R205, R219). -/
def Obligations.NeverStops : Prop := ∀ s : State, Inv s → EnvDuty s → ∃ t, step s = .next t
end

