-- ==== Sys2Proof/Laws/Spaces.lean ====
section
/-! SUPPORT. What the operations on address spaces do: read after write, the canonical form, a buffer written by a loop,
and little-endian words. -/

namespace Sys2Proof.Machine

variable {w : Nat}

@[simp] theorem Space.read_nil (i : Nat) : Space.read ([] : Space w) i = none := rfl

theorem Space.read_cons (a : Nat) (v : BitVec w) (rest : Space w) (i : Nat) :
    Space.read ((a, v) :: rest) i = if a = i then some v else Space.read rest i := rfl

theorem Space.write_cons (a : Nat) (u : BitVec w) (rest : Space w) (i : Nat) (v : BitVec w) :
    Space.write ((a, u) :: rest) i v =
      if i < a then (i, v) :: (a, u) :: rest
      else if i = a then (i, v) :: rest else (a, u) :: Space.write rest i v := rfl

theorem Space.read_write_same (sp : Space w) (i : Nat) (v : BitVec w) :
    Space.read (Space.write sp i v) i = some v := by
  induction sp with
  | nil => simp [Space.write, Space.read]
  | cons c rest ih =>
    obtain ⟨a, u⟩ := c
    rw [Space.write_cons]
    split
    · simp [Space.read_cons]
    · split
      · simp [Space.read_cons]
      · next h => rw [Space.read_cons, if_neg (Ne.symm h), ih]

theorem Space.read_write_other (sp : Space w) {i j : Nat} (v : BitVec w) (h : i ≠ j) :
    Space.read (Space.write sp i v) j = Space.read sp j := by
  induction sp with
  | nil => simp [Space.write, Space.read, h]
  | cons c rest ih =>
    obtain ⟨a, u⟩ := c
    rw [Space.write_cons]
    split
    · rw [Space.read_cons, if_neg h]
    · split
      · next ha => subst ha; rw [Space.read_cons, Space.read_cons, if_neg h, if_neg h]
      · rw [Space.read_cons, Space.read_cons, ih]

theorem Space.mem_write {sp : Space w} {i : Nat} {v : BitVec w} {c : Nat × BitVec w}
    (h : c ∈ Space.write sp i v) : c = (i, v) ∨ c ∈ sp := by
  induction sp with
  | nil => exact .inl (by simpa [Space.write] using h)
  | cons d rest ih =>
    obtain ⟨a, u⟩ := d
    rw [Space.write_cons] at h
    split at h
    · simpa using h
    · split at h
      · rcases List.mem_cons.1 h with h | h
        · exact .inl h
        · exact .inr (List.mem_cons_of_mem _ h)
      · rcases List.mem_cons.1 h with h | h
        · exact .inr (h ▸ List.mem_cons_self)
        · rcases ih h with h | h
          · exact .inl h
          · exact .inr (List.mem_cons_of_mem _ h)

/-- A store keeps the canonical form. -/
theorem Space.wf_write {sp : Space w} (h : Space.wf sp) (i : Nat) (v : BitVec w) : Space.wf (Space.write sp i v) := by
  induction sp with
  | nil => simp [Space.write, Space.wf]
  | cons c rest ih =>
    obtain ⟨a, u⟩ := c
    obtain ⟨hlt, hrest⟩ := List.pairwise_cons.1 h
    rw [Space.write_cons]
    split
    · next hi =>
      refine List.pairwise_cons.2 ⟨fun d hd => ?_, h⟩
      rcases List.mem_cons.1 hd with hd | hd
      · subst hd; exact hi
      · exact lt_trans hi (hlt d hd)
    · split
      · next hi =>
        subst hi
        exact List.pairwise_cons.2 ⟨fun d hd => hlt d hd, hrest⟩
      · next hi hne =>
        refine List.pairwise_cons.2 ⟨fun d hd => ?_, ih hrest⟩
        rcases Space.mem_write hd with hd | hd
        · subst hd; exact lt_of_le_of_ne (not_lt.1 hi) (Ne.symm hne)
        · exact hlt d hd

@[simp] theorem Space.fillFrom_nil (i : Nat) : Space.fillFrom i ([] : List (BitVec w)) = [] := rfl

/-- A filled buffer lists its elements in index order. -/
theorem Space.fillFrom_cons (i : Nat) (v : BitVec w) (vs : List (BitVec w)) :
    Space.fillFrom i (v :: vs) = (i, v) :: Space.fillFrom (i + 1) vs := by
  induction vs generalizing i v with
  | nil => rfl
  | cons u us ih =>
    show Space.write (Space.fillFrom (i + 1) (u :: us)) i v = _
    rw [ih (i + 1) u, Space.write_cons, if_pos (Nat.lt_succ_self i)]

theorem Space.map_fst_fillFrom (i : Nat) (vs : List (BitVec w)) :
    (Space.fillFrom i vs).map Prod.fst = List.range' i vs.length := by
  induction vs generalizing i with
  | nil => rfl
  | cons v vs ih => rw [Space.fillFrom_cons, List.map_cons, ih, List.length_cons, List.range'_succ]

theorem Space.map_snd_fillFrom (i : Nat) (vs : List (BitVec w)) :
    (Space.fillFrom i vs).map Prod.snd = vs := by
  induction vs generalizing i with
  | nil => rfl
  | cons v vs ih => rw [Space.fillFrom_cons, List.map_cons, ih]

theorem Space.length_fill (vs : List (BitVec w)) : (Space.fill vs).length = vs.length := by
  have h := congrArg List.length (Space.map_snd_fillFrom 0 vs)
  rwa [List.length_map] at h

theorem Space.read_fillFrom (i : Nat) (vs : List (BitVec w)) (j : Nat) :
    Space.read (Space.fillFrom i vs) (i + j) = vs[j]? := by
  induction vs generalizing i j with
  | nil => rfl
  | cons v vs ih =>
    rw [Space.fillFrom_cons, Space.read_cons]
    cases j with
    | zero => simp
    | succ j =>
      rw [if_neg (by omega), show i + (j + 1) = (i + 1) + j by omega, ih]
      simp

/-- Reading a buffer written by a loop gives the element of that index. -/
@[simp] theorem Space.read_fill (vs : List (BitVec w)) (i : Nat) : Space.read (Space.fill vs) i = vs[i]? := by
  have h := Space.read_fillFrom 0 vs i
  rwa [Nat.zero_add] at h

theorem Space.mem_fillFrom {i : Nat} {vs : List (BitVec w)} {c : Nat × BitVec w}
    (h : c ∈ Space.fillFrom i vs) : i ≤ c.1 ∧ c.1 < i + vs.length := by
  have hm : c.1 ∈ (Space.fillFrom i vs).map Prod.fst := List.mem_map_of_mem h
  rw [Space.map_fst_fillFrom, List.mem_range'_1] at hm
  exact hm

theorem Space.index_fill_lt {vs : List (BitVec w)} {c : Nat × BitVec w} (h : c ∈ Space.fill vs) :
    c.1 < vs.length := by
  have := (Space.mem_fillFrom h).2
  omega

theorem Space.wf_fillFrom (i : Nat) (vs : List (BitVec w)) : Space.wf (Space.fillFrom i vs) := by
  induction vs generalizing i with
  | nil => exact List.Pairwise.nil
  | cons v vs ih => exact Space.wf_write (ih (i + 1)) i v

/-- A loop over a buffer leaves it in canonical form. -/
theorem Space.wf_fill (vs : List (BitVec w)) : Space.wf (Space.fill vs) := Space.wf_fillFrom 0 vs

@[simp] theorem Space.contents_fill (vs : List (BitVec w)) : Space.contents vs.length (Space.fill vs) = some vs := by
  unfold Space.contents Space.fill
  rw [Space.map_fst_fillFrom, Space.map_snd_fillFrom, List.range_eq_range', if_pos rfl]

theorem Space.contents_fill_of_length {n : Nat} {vs : List (BitVec w)} (h : vs.length = n) :
    Space.contents n (Space.fill vs) = some vs := by subst h; exact Space.contents_fill vs

theorem Space.eq_fillFrom {i : Nat} {sp : Space w}
    (h : sp.map Prod.fst = List.range' i sp.length) : sp = Space.fillFrom i (sp.map Prod.snd) := by
  induction sp generalizing i with
  | nil => rfl
  | cons c rest ih =>
    obtain ⟨a, v⟩ := c
    rw [List.map_cons, List.length_cons, List.range'_succ, List.cons.injEq] at h
    rw [List.map_cons, Space.fillFrom_cons, ← ih h.2, ← h.1]

/-- A buffer that holds a whole value is a buffer filled with it. -/
theorem Space.contents_eq_some {n : Nat} {sp : Space w} {vs : List (BitVec w)}
    (h : Space.contents n sp = some vs) : sp = Space.fill vs ∧ vs.length = n := by
  unfold Space.contents at h
  split at h
  · next hr =>
    have hn : sp.length = n := by
      have := congrArg List.length hr
      rwa [List.length_map, List.length_range] at this
    obtain rfl := Option.some.inj h
    refine ⟨Space.eq_fillFrom ?_, by rw [List.length_map, hn]⟩
    rw [hr, hn, List.range_eq_range']
  · cases h

theorem Space.contents_nil {n : Nat} (h : 0 < n) : Space.contents n ([] : Space w) = none := by
  unfold Space.contents
  rw [if_neg]
  intro e
  have := congrArg List.length e
  simp at this
  omega

/-! ## Little-endian words -/

theorem le16_toNat (lo hi : Byte) : (le16 lo hi).toNat = lo.toNat + 256 * hi.toNat := by
  have := lo.isLt
  rw [le16, BitVec.toNat_append, Nat.shiftLeft_eq, ← Nat.shiftLeft_eq, ← Nat.shiftLeft_add_eq_or_of_lt this,
    Nat.shiftLeft_eq]
  omega

@[simp] theorem halves_cons (lo hi : Byte) (rest : List Byte) : halves (lo :: hi :: rest) = le16 lo hi :: halves rest := rfl

theorem le16At_cons (lo hi : Byte) (rest : List Byte) (o : Nat) :
    le16At (lo :: hi :: rest) (o + 2) = le16At rest o := by
  simp [le16At, show o + 2 + 1 = (o + 1) + 1 + 1 by omega]

/-- Word `k` of a byte sequence is `LE16` at offset `2*k` (R60). -/
theorem halves_getElem? (bs : List Byte) (k : Nat) (h : 2 * k + 1 < bs.length) :
    (halves bs)[k]? = some (le16At bs (2 * k)) := by
  induction k generalizing bs with
  | zero =>
    match bs, h with
    | lo :: hi :: rest, _ => simp [le16At]
  | succ k ih =>
    match bs, h with
    | lo :: hi :: rest, h =>
      rw [halves_cons, List.getElem?_cons_succ, show 2 * (k + 1) = 2 * k + 2 by omega, le16At_cons]
      exact ih rest (by simp at h; omega)

theorem length_halves (bs : List Byte) : (halves bs).length = bs.length / 2 := by
  induction bs using halves.induct with
  | case1 lo hi rest ih => simp [ih]; omega
  | case2 bs h =>
    match bs, h with
    | [], _ => rfl
    | [_], _ => simp [halves]
    | lo :: hi :: rest, h => exact absurd rfl (h lo hi rest)

end Sys2Proof.Machine
end

