-- ==== Sys2Proof/Laws/State.lean ====
section
/-! SUPPORT. What each update of the state does to each field, one lemma per field and update. -/

namespace Sys2Proof.Machine

/-! `State.answer` -/

@[simp] theorem State.answer_stage (s : State) (c : RespCode) (d : Long) : (State.answer s c d).stage = s.stage := rfl
@[simp] theorem State.answer_status (s : State) (c : RespCode) (d : Long) : (State.answer s c d).status = s.status := rfl
@[simp] theorem State.answer_act (s : State) (c : RespCode) (d : Long) : (State.answer s c d).act = s.act := rfl
@[simp] theorem State.answer_lastTrig (s : State) (c : RespCode) (d : Long) : (State.answer s c d).lastTrig = s.lastTrig := rfl
@[simp] theorem State.answer_cyc (s : State) (c : RespCode) (d : Long) : (State.answer s c d).cyc = s.cyc := rfl
@[simp] theorem State.answer_cfg (s : State) (c : RespCode) (d : Long) : (State.answer s c d).cfg = s.cfg := rfl
@[simp] theorem State.answer_env (s : State) (c : RespCode) (d : Long) : (State.answer s c d).env = s.env := rfl
@[simp] theorem State.answer_events (s : State) (c : RespCode) (d : Long) : (State.answer s c d).events = s.events := rfl
@[simp] theorem State.answer_responses (s : State) (c : RespCode) (d : Long) : (State.answer s c d).responses = s.responses ++ [⟨c, d⟩] := rfl

/-! `State.respond` -/

@[simp] theorem State.respond_stage (s : State) (c : RespCode) (d : Long) : (State.respond s c d).stage = s.stage := rfl
@[simp] theorem State.respond_status (s : State) (c : RespCode) (d : Long) : (State.respond s c d).status = c.code := rfl
@[simp] theorem State.respond_act (s : State) (c : RespCode) (d : Long) : (State.respond s c d).act = s.act := rfl
@[simp] theorem State.respond_lastTrig (s : State) (c : RespCode) (d : Long) : (State.respond s c d).lastTrig = s.lastTrig := rfl
@[simp] theorem State.respond_cyc (s : State) (c : RespCode) (d : Long) : (State.respond s c d).cyc = s.cyc := rfl
@[simp] theorem State.respond_cfg (s : State) (c : RespCode) (d : Long) : (State.respond s c d).cfg = s.cfg := rfl
@[simp] theorem State.respond_env (s : State) (c : RespCode) (d : Long) : (State.respond s c d).env = s.env := rfl
@[simp] theorem State.respond_events (s : State) (c : RespCode) (d : Long) : (State.respond s c d).events = s.events := rfl
@[simp] theorem State.respond_responses (s : State) (c : RespCode) (d : Long) : (State.respond s c d).responses = s.responses ++ [⟨c, d⟩] := rfl

/-! `State.reject` -/

@[simp] theorem State.reject_stage (s : State) (c : RespCode) : (State.reject s c).stage = s.stage := rfl
@[simp] theorem State.reject_status (s : State) (c : RespCode) : (State.reject s c).status = c.code := rfl
@[simp] theorem State.reject_act (s : State) (c : RespCode) : (State.reject s c).act = s.act := rfl
@[simp] theorem State.reject_lastTrig (s : State) (c : RespCode) : (State.reject s c).lastTrig = s.lastTrig := rfl
@[simp] theorem State.reject_cyc (s : State) (c : RespCode) : (State.reject s c).cyc = s.cyc := rfl
@[simp] theorem State.reject_cfg (s : State) (c : RespCode) : (State.reject s c).cfg = s.cfg := rfl
@[simp] theorem State.reject_env (s : State) (c : RespCode) : (State.reject s c).env = s.env := rfl
@[simp] theorem State.reject_events (s : State) (c : RespCode) : (State.reject s c).events = s.events := rfl
@[simp] theorem State.reject_responses (s : State) (c : RespCode) : (State.reject s c).responses = s.responses ++ [⟨c, 0⟩] := rfl

/-! `State.cleanup` -/

@[simp] theorem State.cleanup_stage (s : State) : (State.cleanup s).stage = s.stage := rfl
@[simp] theorem State.cleanup_status (s : State) : (State.cleanup s).status = s.status := rfl
@[simp] theorem State.cleanup_act (s : State) : (State.cleanup s).act = s.act := rfl
@[simp] theorem State.cleanup_lastTrig (s : State) : (State.cleanup s).lastTrig = s.lastTrig := rfl
@[simp] theorem State.cleanup_cyc (s : State) : (State.cleanup s).cyc = Cycle.empty := rfl
@[simp] theorem State.cleanup_cfg (s : State) : (State.cleanup s).cfg = s.cfg := rfl
@[simp] theorem State.cleanup_env (s : State) : (State.cleanup s).env = s.env := rfl
@[simp] theorem State.cleanup_events (s : State) : (State.cleanup s).events = s.events := rfl
@[simp] theorem State.cleanup_responses (s : State) : (State.cleanup s).responses = s.responses := rfl

/-! `State.rejectCycle` -/

@[simp] theorem State.rejectCycle_stage (s : State) (c : RespCode) : (State.rejectCycle s c).stage = .idle := rfl
@[simp] theorem State.rejectCycle_status (s : State) (c : RespCode) : (State.rejectCycle s c).status = c.code := rfl
@[simp] theorem State.rejectCycle_act (s : State) (c : RespCode) : (State.rejectCycle s c).act = s.act := rfl
@[simp] theorem State.rejectCycle_lastTrig (s : State) (c : RespCode) : (State.rejectCycle s c).lastTrig = s.lastTrig := rfl
@[simp] theorem State.rejectCycle_cyc (s : State) (c : RespCode) : (State.rejectCycle s c).cyc = Cycle.empty := rfl
@[simp] theorem State.rejectCycle_cfg (s : State) (c : RespCode) : (State.rejectCycle s c).cfg = s.cfg := rfl
@[simp] theorem State.rejectCycle_env (s : State) (c : RespCode) : (State.rejectCycle s c).env = s.env := rfl
@[simp] theorem State.rejectCycle_events (s : State) (c : RespCode) : (State.rejectCycle s c).events = s.events := rfl
@[simp] theorem State.rejectCycle_responses (s : State) (c : RespCode) : (State.rejectCycle s c).responses = s.responses ++ [⟨c, 0⟩] := rfl

/-! `State.illegalWord` -/

@[simp] theorem State.illegalWord_stage (s : State) : (State.illegalWord s).stage = s.stage := rfl
@[simp] theorem State.illegalWord_status (s : State) : (State.illegalWord s).status = RespCode.illegalCommand.code := rfl
@[simp] theorem State.illegalWord_act (s : State) : (State.illegalWord s).act = s.act := rfl
@[simp] theorem State.illegalWord_lastTrig (s : State) : (State.illegalWord s).lastTrig = s.lastTrig := rfl
@[simp] theorem State.illegalWord_cyc (s : State) : (State.illegalWord s).cyc = s.cyc := rfl
@[simp] theorem State.illegalWord_cfg (s : State) : (State.illegalWord s).cfg = s.cfg := rfl
@[simp] theorem State.illegalWord_env (s : State) : (State.illegalWord s).env = s.env := rfl
@[simp] theorem State.illegalWord_events (s : State) : (State.illegalWord s).events = s.events := rfl
@[simp] theorem State.illegalWord_responses (s : State) : (State.illegalWord s).responses = s.responses ++ [⟨.illegalCommand, 0⟩] := rfl

/-! `State.emit` -/

@[simp] theorem State.emit_stage (s : State) (e : Event) : (State.emit s e).stage = s.stage := rfl
@[simp] theorem State.emit_status (s : State) (e : Event) : (State.emit s e).status = s.status := rfl
@[simp] theorem State.emit_act (s : State) (e : Event) : (State.emit s e).act = s.act := rfl
@[simp] theorem State.emit_lastTrig (s : State) (e : Event) : (State.emit s e).lastTrig = s.lastTrig := rfl
@[simp] theorem State.emit_cyc (s : State) (e : Event) : (State.emit s e).cyc = s.cyc := rfl
@[simp] theorem State.emit_cfg (s : State) (e : Event) : (State.emit s e).cfg = s.cfg := rfl
@[simp] theorem State.emit_env (s : State) (e : Event) : (State.emit s e).env = s.env := rfl
@[simp] theorem State.emit_events (s : State) (e : Event) : (State.emit s e).events = s.events ++ [e] := rfl
@[simp] theorem State.emit_responses (s : State) (e : Event) : (State.emit s e).responses = s.responses := rfl

/-! `State.actSet` -/

@[simp] theorem State.actSet_stage (s : State) (b : Bool) : (State.actSet s b).stage = s.stage := rfl
@[simp] theorem State.actSet_status (s : State) (b : Bool) : (State.actSet s b).status = s.status := rfl
@[simp] theorem State.actSet_act (s : State) (b : Bool) : (State.actSet s b).act = b := rfl
@[simp] theorem State.actSet_lastTrig (s : State) (b : Bool) : (State.actSet s b).lastTrig = s.lastTrig := rfl
@[simp] theorem State.actSet_cyc (s : State) (b : Bool) : (State.actSet s b).cyc = s.cyc := rfl
@[simp] theorem State.actSet_cfg (s : State) (b : Bool) : (State.actSet s b).cfg = s.cfg := rfl
@[simp] theorem State.actSet_env (s : State) (b : Bool) : (State.actSet s b).env = s.env := rfl
@[simp] theorem State.actSet_events (s : State) (b : Bool) : (State.actSet s b).events = s.events ++ [.actSet b] := rfl
@[simp] theorem State.actSet_responses (s : State) (b : Bool) : (State.actSet s b).responses = s.responses := rfl

/-! `State.hold` -/

@[simp] theorem State.hold_stage (s : State) (ms : Nat) : (State.hold s ms).stage = s.stage := rfl
@[simp] theorem State.hold_status (s : State) (ms : Nat) : (State.hold s ms).status = s.status := rfl
@[simp] theorem State.hold_act (s : State) (ms : Nat) : (State.hold s ms).act = s.act := rfl
@[simp] theorem State.hold_lastTrig (s : State) (ms : Nat) : (State.hold s ms).lastTrig = s.lastTrig := rfl
@[simp] theorem State.hold_cyc (s : State) (ms : Nat) : (State.hold s ms).cyc = s.cyc := rfl
@[simp] theorem State.hold_cfg (s : State) (ms : Nat) : (State.hold s ms).cfg = s.cfg := rfl
@[simp] theorem State.hold_env (s : State) (ms : Nat) : (State.hold s ms).env = s.env := rfl
@[simp] theorem State.hold_events (s : State) (ms : Nat) : (State.hold s ms).events = s.events ++ [.hold ms] := rfl
@[simp] theorem State.hold_responses (s : State) (ms : Nat) : (State.hold s ms).responses = s.responses := rfl

/-! `State.present` -/

@[simp] theorem State.present_stage (s : State) (img : Space 24) (ov : Overlay) : (State.present s img ov).stage = s.stage := rfl
@[simp] theorem State.present_status (s : State) (img : Space 24) (ov : Overlay) : (State.present s img ov).status = s.status := rfl
@[simp] theorem State.present_act (s : State) (img : Space 24) (ov : Overlay) : (State.present s img ov).act = s.act := rfl
@[simp] theorem State.present_lastTrig (s : State) (img : Space 24) (ov : Overlay) : (State.present s img ov).lastTrig = s.lastTrig := rfl
@[simp] theorem State.present_cyc (s : State) (img : Space 24) (ov : Overlay) : (State.present s img ov).cyc = s.cyc := rfl
@[simp] theorem State.present_cfg (s : State) (img : Space 24) (ov : Overlay) : (State.present s img ov).cfg = s.cfg := rfl
@[simp] theorem State.present_env (s : State) (img : Space 24) (ov : Overlay) : (State.present s img ov).env = s.env := rfl
@[simp] theorem State.present_events (s : State) (img : Space 24) (ov : Overlay) : (State.present s img ov).events = s.events ++ [.present img ov] := rfl
@[simp] theorem State.present_responses (s : State) (img : Space 24) (ov : Overlay) : (State.present s img ov).responses = s.responses := rfl

/-! `State.gaveClock` -/

@[simp] theorem State.gaveClock_stage (s : State) (t : Long) : (State.gaveClock s t).stage = s.stage := rfl
@[simp] theorem State.gaveClock_status (s : State) (t : Long) : (State.gaveClock s t).status = s.status := rfl
@[simp] theorem State.gaveClock_act (s : State) (t : Long) : (State.gaveClock s t).act = s.act := rfl
@[simp] theorem State.gaveClock_lastTrig (s : State) (t : Long) : (State.gaveClock s t).lastTrig = s.lastTrig := rfl
@[simp] theorem State.gaveClock_cyc (s : State) (t : Long) : (State.gaveClock s t).cyc = s.cyc := rfl
@[simp] theorem State.gaveClock_cfg (s : State) (t : Long) : (State.gaveClock s t).cfg = s.cfg := rfl
@[simp] theorem State.gaveClock_env (s : State) (t : Long) : (State.gaveClock s t).env = { s.env with clockGiven := t :: s.env.clockGiven } := rfl
@[simp] theorem State.gaveClock_events (s : State) (t : Long) : (State.gaveClock s t).events = s.events := rfl
@[simp] theorem State.gaveClock_responses (s : State) (t : Long) : (State.gaveClock s t).responses = s.responses := rfl

/-! `State.applyReset` -/

@[simp] theorem State.applyReset_stage (s : State) : (State.applyReset s).stage = .idle := rfl
@[simp] theorem State.applyReset_status (s : State) : (State.applyReset s).status = 0 := rfl
@[simp] theorem State.applyReset_act (s : State) : (State.applyReset s).act = false := rfl
@[simp] theorem State.applyReset_lastTrig (s : State) : (State.applyReset s).lastTrig = 0 := rfl
@[simp] theorem State.applyReset_cyc (s : State) : (State.applyReset s).cyc = Cycle.empty := rfl
@[simp] theorem State.applyReset_cfg (s : State) : (State.applyReset s).cfg = s.cfg := rfl
@[simp] theorem State.applyReset_env (s : State) : (State.applyReset s).env = s.env := rfl
@[simp] theorem State.applyReset_events (s : State) : (State.applyReset s).events = [] := rfl
@[simp] theorem State.applyReset_responses (s : State) : (State.applyReset s).responses = [] := rfl

/-! `State.offerFirst` -/

@[simp] theorem State.offerFirst_stage (s : State) (w : Word) : (State.offerFirst s w).stage = s.stage := rfl
@[simp] theorem State.offerFirst_status (s : State) (w : Word) : (State.offerFirst s w).status = s.status := rfl
@[simp] theorem State.offerFirst_act (s : State) (w : Word) : (State.offerFirst s w).act = s.act := rfl
@[simp] theorem State.offerFirst_lastTrig (s : State) (w : Word) : (State.offerFirst s w).lastTrig = s.lastTrig := rfl
@[simp] theorem State.offerFirst_cyc (s : State) (w : Word) : (State.offerFirst s w).cyc = s.cyc := rfl
@[simp] theorem State.offerFirst_cfg (s : State) (w : Word) : (State.offerFirst s w).cfg = s.cfg := rfl
@[simp] theorem State.offerFirst_env (s : State) (w : Word) : (State.offerFirst s w).env = { s.env with offered := .command w :: s.env.offered } := rfl
@[simp] theorem State.offerFirst_events (s : State) (w : Word) : (State.offerFirst s w).events = s.events := rfl
@[simp] theorem State.offerFirst_responses (s : State) (w : Word) : (State.offerFirst s w).responses = s.responses := rfl

/-! The environment's primitives change nothing of the block: only the record of inputs. -/

@[simp] theorem sensorPending_stage (s : State) : (sensorPending s).2.stage = s.stage := by
  unfold sensorPending; split <;> rfl
@[simp] theorem sensorPending_status (s : State) : (sensorPending s).2.status = s.status := by
  unfold sensorPending; split <;> rfl
@[simp] theorem sensorPending_act (s : State) : (sensorPending s).2.act = s.act := by
  unfold sensorPending; split <;> rfl
@[simp] theorem sensorPending_lastTrig (s : State) : (sensorPending s).2.lastTrig = s.lastTrig := by
  unfold sensorPending; split <;> rfl
@[simp] theorem sensorPending_cyc (s : State) : (sensorPending s).2.cyc = s.cyc := by
  unfold sensorPending; split <;> rfl
@[simp] theorem sensorPending_cfg (s : State) : (sensorPending s).2.cfg = s.cfg := by
  unfold sensorPending; split <;> rfl
@[simp] theorem sensorPending_events (s : State) : (sensorPending s).2.events = s.events := by
  unfold sensorPending; split <;> rfl
@[simp] theorem sensorPending_responses (s : State) : (sensorPending s).2.responses = s.responses := by
  unfold sensorPending; split <;> rfl

@[simp] theorem sensorRead_stage (s : State) : (sensorRead s).2.stage = s.stage := by
  unfold sensorRead; split <;> rfl
@[simp] theorem sensorRead_status (s : State) : (sensorRead s).2.status = s.status := by
  unfold sensorRead; split <;> rfl
@[simp] theorem sensorRead_act (s : State) : (sensorRead s).2.act = s.act := by
  unfold sensorRead; split <;> rfl
@[simp] theorem sensorRead_lastTrig (s : State) : (sensorRead s).2.lastTrig = s.lastTrig := by
  unfold sensorRead; split <;> rfl
@[simp] theorem sensorRead_cyc (s : State) : (sensorRead s).2.cyc = s.cyc := by
  unfold sensorRead; split <;> rfl
@[simp] theorem sensorRead_cfg (s : State) : (sensorRead s).2.cfg = s.cfg := by
  unfold sensorRead; split <;> rfl
@[simp] theorem sensorRead_events (s : State) : (sensorRead s).2.events = s.events := by
  unfold sensorRead; split <;> rfl
@[simp] theorem sensorRead_responses (s : State) : (sensorRead s).2.responses = s.responses := by
  unfold sensorRead; split <;> rfl

@[simp] theorem clockNow_stage (s : State) : (clockNow s).2.stage = s.stage := by
  unfold clockNow; split <;> rfl
@[simp] theorem clockNow_status (s : State) : (clockNow s).2.status = s.status := by
  unfold clockNow; split <;> rfl
@[simp] theorem clockNow_act (s : State) : (clockNow s).2.act = s.act := by
  unfold clockNow; split <;> rfl
@[simp] theorem clockNow_lastTrig (s : State) : (clockNow s).2.lastTrig = s.lastTrig := by
  unfold clockNow; split <;> rfl
@[simp] theorem clockNow_cyc (s : State) : (clockNow s).2.cyc = s.cyc := by
  unfold clockNow; split <;> rfl
@[simp] theorem clockNow_cfg (s : State) : (clockNow s).2.cfg = s.cfg := by
  unfold clockNow; split <;> rfl
@[simp] theorem clockNow_events (s : State) : (clockNow s).2.events = s.events := by
  unfold clockNow; split <;> rfl
@[simp] theorem clockNow_responses (s : State) : (clockNow s).2.responses = s.responses := by
  unfold clockNow; split <;> rfl

/-! `firePulse` -/

@[simp] theorem firePulse_stage (s : State) (now : Long) : (firePulse s now).stage = s.stage := rfl
@[simp] theorem firePulse_status (s : State) (now : Long) : (firePulse s now).status = s.status := rfl
@[simp] theorem firePulse_act (s : State) (now : Long) : (firePulse s now).act = false := rfl
@[simp] theorem firePulse_lastTrig (s : State) (now : Long) : (firePulse s now).lastTrig = now := rfl
@[simp] theorem firePulse_cyc (s : State) (now : Long) : (firePulse s now).cyc = s.cyc := rfl
@[simp] theorem firePulse_cfg (s : State) (now : Long) : (firePulse s now).cfg = s.cfg := rfl
@[simp] theorem firePulse_env (s : State) (now : Long) : (firePulse s now).env = s.env := rfl
@[simp] theorem firePulse_events (s : State) (now : Long) : (firePulse s now).events = s.events ++ [.actSet true] ++ [.hold Config.pulseMs] ++ [.actSet false] := rfl
@[simp] theorem firePulse_responses (s : State) (now : Long) : (firePulse s now).responses = s.responses := rfl

end Sys2Proof.Machine
end

