-- ==== Sys2Proof/Laws/Ops.lean ====
section
/-! SUPPORT. One lemma for each shared operation, saying once what it can do. -/

namespace Sys2Proof.Machine

/-- In the stage a command needs, the guard is its body. -/
theorem guardStage_pass {need : Stage} {s : State} (h : s.stage = need)
    (body : Host.Outcome State Fault Refusal) : guardStage need s body = body := if_pos h

/-- In any other stage, the guard answers `BadStage` and writes nothing but `STATUS` (R213). -/
theorem guardStage_block {need : Stage} {s : State} (h : s.stage ≠ need)
    (body : Host.Outcome State Fault Refusal) : guardStage need s body = .next (s.reject .badStage) := if_neg h

/-- All a guarded command can answer. -/
theorem guardStage_cases {need : Stage} {s t : State} {body : Host.Outcome State Fault Refusal}
    (h : guardStage need s body = .next t) :
    (s.stage = need ∧ body = .next t) ∨ (s.stage ≠ need ∧ t = s.reject .badStage) := by
  unfold guardStage at h
  split at h
  · next hs => exact .inl ⟨hs, h⟩
  · next hs => exact .inr ⟨hs, by injection h with h; exact h.symm⟩

/-- The inputs a `SensorPending()` uses: one listed answer, or one free value. -/
theorem sensorPending_env (s : State) :
    (∃ p ps, s.env.pending = p :: ps ∧ (sensorPending s).1 = p ∧ (sensorPending s).2.env = { s.env with pending := ps }) ∨
    (s.env.pending = [] ∧ (sensorPending s).1 = Config.freePending s.env.freeIdx ∧
      (sensorPending s).2.env = { s.env with freeIdx := s.env.freeIdx + 1 }) := by
  unfold sensorPending
  split
  · next p ps h => exact .inl ⟨p, ps, h, rfl, rfl⟩
  · next h => exact .inr ⟨h, rfl, rfl⟩

/-- The inputs a `SensorRead(1544)` uses: one listed answer, or one free value of at most 1544 bytes. -/
theorem sensorRead_env (s : State) :
    (∃ bs rest, s.env.reads = bs :: rest ∧ (sensorRead s).1 = bs ∧ (sensorRead s).2.env = { s.env with reads := rest }) ∨
    (s.env.reads = [] ∧ (sensorRead s).1 = (Config.freeRead s.env.freeIdx).take Config.frameBytes ∧
      (sensorRead s).2.env = { s.env with freeIdx := s.env.freeIdx + 1 }) := by
  unfold sensorRead
  split
  · next bs rest h => exact .inl ⟨bs, rest, h, rfl, rfl⟩
  · next h => exact .inr ⟨h, rfl, rfl⟩

/-- The inputs a `ClockNow()` uses: one listed answer, or one free value; the answer is recorded as given. -/
theorem clockNow_env (s : State) :
    (∃ t ts, s.env.clock = t :: ts ∧ (clockNow s).1 = t ∧
      (clockNow s).2.env = { s.env with clock := ts, clockGiven := t :: s.env.clockGiven }) ∨
    (s.env.clock = [] ∧ (clockNow s).1 = later (clockFloor s) (Config.freeClock s.env.freeIdx) ∧
      (clockNow s).2.env = { s.env with
        freeIdx := s.env.freeIdx + 1
        clockGiven := later (clockFloor s) (Config.freeClock s.env.freeIdx) :: s.env.clockGiven }) := by
  unfold clockNow
  split
  · next t ts h => exact .inl ⟨t, ts, h, rfl, rfl⟩
  · next h => exact .inr ⟨h, rfl, rfl⟩

theorem le_later_left (a b : Long) : a ≤ later a b := by
  unfold later
  split
  · next h => exact BitVec.le_of_lt h
  · exact BitVec.le_refl a

theorem le_later_right (a b : Long) : b ≤ later a b := by
  unfold later
  split
  · exact BitVec.le_refl b
  · next h => exact BitVec.not_lt.1 h

theorem lastTrig_le_clockFloor (s : State) : s.lastTrig ≤ clockFloor s := le_later_left _ _

theorem given_le_clockFloor (s : State) : s.env.clockGiven.headD 0 ≤ clockFloor s := le_later_right _ _

/-- An answer is accepted exactly when it keeps the clock's duty (R11). -/
theorem clockRefusal_eq_none {s : State} {t : Long} :
    clockRefusal s t = none ↔ s.lastTrig ≤ t ∧ s.env.clockGiven.headD 0 ≤ t := by
  unfold clockRefusal
  split
  · next h => exact ⟨nofun, fun k => absurd h (BitVec.not_lt.2 k.1)⟩
  · next h =>
    split
    · next h' => exact ⟨nofun, fun k => absurd h' (BitVec.not_lt.2 k.2)⟩
    · next h' => exact ⟨fun _ => ⟨BitVec.not_lt.1 h, BitVec.not_lt.1 h'⟩, fun _ => rfl⟩

/-- A free answer keeps the clock's duty. -/
theorem clockRefusal_free (s : State) (t : Long) : clockRefusal s (later (clockFloor s) t) = none :=
  clockRefusal_eq_none.2
    ⟨BitVec.le_trans (lastTrig_le_clockFloor s) (le_later_left _ _),
      BitVec.le_trans (given_le_clockFloor s) (le_later_left _ _)⟩

/-- All a step can be: waiting, reset, an illegal word, or the decoded command. -/
theorem step_cases (s : State) :
    (s.env.offered = [] ∧ step s = .next s) ∨
    (∃ rest, s.env.offered = .reset :: rest ∧
      step s = .next (State.applyReset { s with env := { s.env with offered := rest } })) ∨
    (∃ w rest why, s.env.offered = .command w :: rest ∧ decode w = .illegal why ∧
      step s = .next (State.illegalWord { s with env := { s.env with offered := rest } })) ∨
    (∃ w rest i, s.env.offered = .command w :: rest ∧ decode w = .command i ∧
      step s = exec i { s with env := { s.env with offered := rest } }) := by
  unfold step takeOffer
  match h : s.env.offered with
  | [] => exact .inl ⟨rfl, rfl⟩
  | .reset :: rest => exact .inr (.inl ⟨rest, rfl, rfl⟩)
  | .command w :: rest =>
    match hd : decode w with
    | .illegal why => exact .inr (.inr (.inl ⟨w, rest, why, rfl, hd, by simp [hd]⟩))
    | .command i => exact .inr (.inr (.inr ⟨w, rest, i, rfl, hd, by simp [hd]⟩))

end Sys2Proof.Machine
end

