-- ==== Sys2Proof/Laws/Commands.lean ====
section
/-! SUPPORT. One inversion lemma for each command: if it answers a next state, then one of these cases holds. -/

namespace Sys2Proof.Machine

/-- All `ACQ` can do once the environment answers: nothing pending, a short read, or a whole frame. -/
theorem acquire_cases (s : State) :
    ((sensorPending s).1 = false ∧ acquire s = (sensorPending s).2.reject .noData) ∨
    ((sensorPending s).1 = true ∧ (sensorRead (sensorPending s).2).1.length < 1544 ∧
      acquire s = (sensorRead (sensorPending s).2).2.reject .incompleteFrame) ∨
    ((sensorPending s).1 = true ∧ 1544 ≤ (sensorRead (sensorPending s).2).1.length ∧
      acquire s = State.respond { (sensorRead (sensorPending s).2).2 with
        stage := .loaded
        cyc := { s.cyc with fb := Space.fill (sensorRead (sensorPending s).2).1 } } .ok 0) := by
  unfold acquire
  cases hp : (sensorPending s).1 with
  | false => left; simp [hp]
  | true =>
    right
    by_cases hl : (sensorRead (sensorPending s).2).1.length < 1544
    · left; simp [hp, hl]
    · right; simp [hp, hl]; omega

/-- Where the read is not refused, it returns at most 1544 bytes, listed or free. -/
theorem sensorRead_length {s : State} (h : readTooLong s = false) (hp : (sensorPending s).1 = true) :
    (sensorRead (sensorPending s).2).1.length ≤ 1544 := by
  have hr : (sensorPending s).2.env.reads = s.env.reads := by unfold sensorPending; split <;> rfl
  rcases sensorRead_env (sensorPending s).2 with ⟨bs, rest, h1, h2, _⟩ | ⟨_, h2, _⟩
  · rw [hr] at h1
    simp [readTooLong, hp, h1] at h
    rw [h2]; exact h
  · rw [h2]; simp

/-- All the next states `ACQ` has. -/
theorem exec_acq_next {s t : State} (h : exec .acq s = .next t) :
    (s.stage ≠ .idle ∧ t = s.reject .badStage) ∨
    (s.stage = .idle ∧ (sensorPending s).1 = false ∧ t = (sensorPending s).2.reject .noData) ∨
    (s.stage = .idle ∧ t = (sensorRead (sensorPending s).2).2.reject .incompleteFrame) ∨
    (s.stage = .idle ∧ (sensorRead (sensorPending s).2).1.length = 1544 ∧
      t = State.respond { (sensorRead (sensorPending s).2).2 with
        stage := .loaded
        cyc := { s.cyc with fb := Space.fill (sensorRead (sensorPending s).2).1 } } .ok 0) := by
  rcases guardStage_cases h with ⟨hs, hb⟩ | ⟨hs, rfl⟩
  · right
    split at hb
    · cases hb
    · next hlong =>
      injection hb with hb
      rcases acquire_cases s with ⟨a, b⟩ | ⟨a, b, c⟩ | ⟨a, b, c⟩
      · exact .inl ⟨hs, a, by rw [← hb, b]⟩
      · exact .inr (.inl ⟨hs, by rw [← hb, c]⟩)
      · exact .inr (.inr ⟨hs, le_antisymm (sensorRead_length (by simpa using hlong) a) b, by rw [← hb, c]⟩)
  · exact .inl ⟨hs, rfl⟩

/-- All the next states `VAL` has. -/
theorem exec_val_next {s t : State} (h : exec .val s = .next t) :
    (s.stage ≠ .loaded ∧ t = s.reject .badStage) ∨
    (s.stage = .loaded ∧ (t = s.rejectCycle .invalidHeader ∨ t = s.rejectCycle .checksumMismatch)) ∨
    (s.stage = .loaded ∧ ∃ f, Space.contents 1544 s.cyc.fb = some f ∧ headerOk s.cfg.sentinel f = true ∧
      checksum f = trailingWord f ∧
      t = State.respond { s with stage := .valid, cyc := { s.cyc with dlen := some (declaredLength f) } } .ok 0) := by
  rcases guardStage_cases h with ⟨hs, hb⟩ | ⟨hs, rfl⟩
  · right
    split at hb
    · next f hf =>
      injection hb with hb
      unfold validate at hb
      split at hb
      · next h1 =>
        split at hb
        · next h2 => exact .inr ⟨hs, f, hf, h1, h2, hb.symm⟩
        · exact .inl ⟨hs, .inr hb.symm⟩
      · exact .inl ⟨hs, .inl hb.symm⟩
    · cases hb
  · exact .inl ⟨hs, rfl⟩

/-- All the next states `DEC` has. -/
theorem exec_dec_next {s t : State} (h : exec .dec s = .next t) :
    (s.stage ≠ .valid ∧ t = s.reject .badStage) ∨
    (s.stage = .valid ∧ ∃ f, Space.contents 1544 s.cyc.fb = some f ∧ t = decodeFrame s f) := by
  rcases guardStage_cases h with ⟨hs, hb⟩ | ⟨hs, rfl⟩
  · right
    split at hb
    · next f hf => injection hb with hb; exact ⟨hs, f, hf, hb.symm⟩
    · cases hb
  · exact .inl ⟨hs, rfl⟩

/-- All the next states `ANA` has. -/
theorem exec_ana_next {s t : State} {thr} (h : exec (.ana thr) s = .next t) :
    (s.stage ≠ .decoded ∧ t = s.reject .badStage) ∨
    (s.stage = .decoded ∧ ∃ g, Space.contents 768 s.cyc.tg = some g ∧ t = analyze s thr.toNat g) := by
  rcases guardStage_cases h with ⟨hs, hb⟩ | ⟨hs, rfl⟩
  · right
    split at hb
    · next f hf => injection hb with hb; exact ⟨hs, f, hf, hb.symm⟩
    · cases hb
  · exact .inl ⟨hs, rfl⟩

/-- All the next states `ALR` has. -/
theorem exec_alr_next {s t : State} (h : exec .alr s = .next t) :
    (s.stage ≠ .analyzed ∧ t = s.reject .badStage) ∨
    (s.stage = .analyzed ∧ ∃ occ, s.cyc.occ = some occ ∧ s.lastTrig ≤ (clockNow s).1 ∧
      s.env.clockGiven.headD 0 ≤ (clockNow s).1 ∧ t = alert (clockNow s).2 occ (clockNow s).1) := by
  rcases guardStage_cases h with ⟨hs, hb⟩ | ⟨hs, rfl⟩
  · right
    split at hb
    · cases hb
    · next occ ho =>
      split at hb
      · cases hb
      · next hduty =>
        injection hb with hb
        exact ⟨hs, occ, ho, (clockRefusal_eq_none.1 hduty).1, (clockRefusal_eq_none.1 hduty).2, hb.symm⟩
  · exact .inl ⟨hs, rfl⟩

/-- Once the clock is sampled, `ALR` fires or does not. -/
theorem alert_cases (s : State) (occ now) :
   (occ = true ∧ 500 < now.toNat - s.lastTrig.toNat ∧ alert s occ now = State.respond { firePulse s now with stage := .alerted } .ok 1) ∨
   (¬ (occ = true ∧ 500 < now.toNat - s.lastTrig.toNat) ∧ alert s occ now = State.respond { s with stage := .alerted } .ok 0) := by
  unfold alert
  by_cases h : (occ && cooledDown s.lastTrig now) = true
  · rw [if_pos h]; simp [cooledDown] at h; exact .inl ⟨h.1, h.2, rfl⟩
  · rw [if_neg h]; right; refine ⟨fun e => h ?_, rfl⟩; simpa [cooledDown] using e

/-- All the next states `REN` has. -/
theorem exec_ren_next {s t : State} (h : exec .ren s = .next t) :
    (s.stage ≠ .alerted ∧ t = s.reject .badStage) ∨
    (s.stage = .alerted ∧ ∃ g a d m, Space.contents 768 s.cyc.tg = some g ∧ s.cyc.tmin = some a ∧ s.cyc.span = some d ∧
      hottest s.cyc = some m ∧ t = render s a.toNat d.toNat g m) := by
  rcases guardStage_cases h with ⟨hs, hb⟩ | ⟨hs, rfl⟩
  · right
    split at hb
    · cases hb
    · next g hg =>
      split at hb
      · next a d m ha hd hm =>
        split at hb
        · injection hb with hb; exact ⟨hs, g, a, d, m, hg, ha, hd, hm, hb.symm⟩
        · cases hb
      · cases hb
  · exact .inl ⟨hs, rfl⟩

/-- All the next states `PRS` has. -/
theorem exec_prs_next {s t : State} (h : exec .prs s = .next t) :
    (s.stage ≠ .rendered ∧ t = s.reject .badStage) ∨
    (s.stage = .rendered ∧ ∃ ct hv, s.cyc.ovCt = some ct ∧ s.cyc.ovHv = some hv ∧
      t = handOver s ⟨ct, hv, s.cyc.ovHx, s.cyc.ovHy, s.cyc.ovHt⟩) := by
  rcases guardStage_cases h with ⟨hs, hb⟩ | ⟨hs, rfl⟩
  · right
    split at hb
    · next ct hv h1 h2 =>
      split at hb
      · injection hb with hb; exact ⟨hs, ct, hv, h1, h2, hb.symm⟩
      · cases hb
    · cases hb
  · exact .inl ⟨hs, rfl⟩

/-- All the next states `RDR` has. -/
theorem exec_rdr_next {s t : State} {n} (h : exec (.rdr n) s = .next t) :
    ∃ c d, t = s.answer c d ∧ (c ≠ .ok → d = 0 ∧ (c = .badIndex ∨ c = .badStage)) := by
  injection h with h
  split at h
  · exact ⟨_, _, h.symm, by simp⟩
  · split at h <;> exact ⟨_, _, h.symm, by simp⟩

/-- All the next states `RDT` has. -/
theorem exec_rdt_next {s t : State} {n} (h : exec (.rdt n) s = .next t) :
    ∃ c d, t = s.answer c d ∧ (c ≠ .ok → d = 0 ∧ (c = .badIndex ∨ c = .badStage)) := by
  injection h with h
  split at h
  · exact ⟨_, _, h.symm, by simp⟩
  · split at h
    · split at h <;> exact ⟨_, _, h.symm, by simp⟩
    · exact ⟨_, _, h.symm, by simp⟩

/-- The one next state of `END`. -/
theorem exec_end_next {s t : State} (h : exec .endCycle s = .next t) :
    t = State.respond { s.cleanup with stage := .idle } .ok 0 := by
  injection h with h; exact h.symm

end Sys2Proof.Machine
end

