-- ==== Sys2Proof/Laws/Config.lean ====
section
/-! SUPPORT. The named constants of table T5 as numerals, for arithmetic. -/

namespace Sys2Proof.Config

theorem frameBytes_eq : frameBytes = 1544 := rfl
theorem width_eq : width = 32 := rfl
theorem height_eq : height = 24 := rfl
theorem numPixels_eq : numPixels = 768 := rfl
theorem numSummed_eq : numSummed = 771 := rfl
theorem minLimit_eq : minLimit = 0 := rfl
theorem maxLimit_eq : maxLimit = 30000 := rfl
theorem flatSpan_eq : flatSpan = 100 := rfl
theorem cooldownMs_eq : cooldownMs = 500 := rfl
theorem pulseMs_eq : pulseMs = 100 := rfl
theorem centerIdx_eq : centerIdx = 400 := rfl

/-- `DISP_W = 32*SX` (T6). -/
theorem dispW_eq (p : Params) : p.dispW = 32 * p.sx := rfl

/-- `DISP_H = 24*SY` (T6). -/
theorem dispH_eq (p : Params) : p.dispH = 24 * p.sy := rfl

end Sys2Proof.Config
end

