-- ==== Sys2Proof/Laws/Frame.lean ====
section
/-! SUPPORT. The frame computations in terms of `LE16` at byte offsets (R53, R107, R121). -/

namespace Sys2Proof.Machine

theorem halves_getD {bs : List Byte} {k : Nat} (h : 2 * k + 1 < bs.length) :
    (halves bs).getD k 0 = le16At bs (2 * k) := by
  rw [List.getD_eq_getElem?_getD, halves_getElem? bs k h, Option.getD_some]

/-- The trailing word is `LE16(FB, 1542)` (R58). -/
theorem trailingWord_eq {frame : List Byte} (h : frame.length = 1544) :
    trailingWord frame = le16At frame 1542 := halves_getD (k := 771) (by omega)

/-- The declared length is `LE16(FB, 2)` (R29). -/
theorem declaredLength_eq {frame : List Byte} (h : frame.length = 1544) :
    declaredLength frame = le16At frame 2 := halves_getD (by omega)

theorem samples_getElem? {frame : List Byte} (h : frame.length = 1544) {i : Nat}
    (hi : i < 768) : (samples frame)[i]? = some (le16At frame (4 + 2 * i)) := by
  rw [samples, List.getElem?_take_of_lt (show i < Config.numPixels from hi), List.getElem?_drop, halves_getElem? frame (2 + i) (by omega)]
  congr 2; omega

theorem length_samples {frame : List Byte} (h : frame.length = 1544) :
    (samples frame).length = 768 := by
  rw [samples, List.length_take, List.length_drop, length_halves, h]; rfl

theorem foldl_add_toNat (l : List Half) (a : Half) :
    (l.foldl (· + ·) a).toNat = (a.toNat + (l.map BitVec.toNat).sum) % 65536 := by
  induction l generalizing a with
  | nil => simp [Nat.mod_eq_of_lt a.isLt]
  | cons v l ih => rw [List.foldl_cons, ih, BitVec.toNat_add, List.map_cons, List.sum_cons]; omega

theorem sum_map_range (f : Nat → Nat) (n : Nat) : ((List.range n).map f).sum = ∑ k ∈ Finset.range n, f k := by
  induction n with
  | zero => rfl
  | succ n ih => rw [List.range_succ, List.map_append, List.sum_append, Finset.sum_range_succ, ih]; simp

/-- The summed words are `LE16(FB, 2*k)` for `k` below 771 (R107). -/
theorem summed_eq {frame : List Byte} (h : frame.length = 1544) :
    (halves frame).take 771 = (List.range 771).map fun k => le16At frame (2 * k) := by
  apply List.ext_getElem?
  intro k
  by_cases hk : k < 771
  · rw [List.getElem?_take_of_lt hk, halves_getElem? frame k (by omega), List.getElem?_map, List.getElem?_range hk]
    rfl
  · rw [List.getElem?_take_eq_none (not_lt.1 hk), List.getElem?_eq_none (by simpa using not_lt.1 hk)]

/-- `SUM(FB)` reduced once at the end (R107). -/
theorem checksum_toNat {frame : List Byte} (h : frame.length = 1544) :
    (checksum frame).toNat = (∑ k ∈ Finset.range 771, (le16At frame (2 * k)).toNat) % 65536 := by
  rw [checksum, foldl_add_toNat, summed_eq h, List.map_map, show BitVec.toNat (0 : Half) = 0 from rfl, Nat.zero_add,
    sum_map_range]
  rfl

/-- The header check reads bytes 0 and 1 (R106). -/
theorem headerOk_iff {frame : List Byte} (h : frame.length = 1544) (sentinel : Byte) :
    headerOk sentinel frame = true ↔ frame.getD 0 0 = sentinel ∧ frame.getD 1 0 = sentinel := by
  match frame, h with
  | a :: b :: rest, _ => simp [headerOk]

end Sys2Proof.Machine
end

