-- ==== Sys2Proof/Laws/PerInstr.lean ====
section
/-! SUPPORT. Facts about every command as syntax, one lemma per constructor. -/

namespace Sys2Proof.Laws.TableRow

/-- The word of a command has the opcode of its row of table T82 in bits 31:24 and 0 in the reserved bits 23:16. -/
def Statement (i : Instr) : Prop := opField (encode i) = i.opcode ∧ rsvField (encode i) = 0

theorem fields (op : Byte) (imm : Half) :
    opField (op ++ (0 : Byte) ++ imm) = op ∧ rsvField (op ++ (0 : Byte) ++ imm) = 0 := by
  constructor <;> (ext k hk; simp only [opField, rsvField, BitVec.getElem_extractLsb', BitVec.getLsbD_append])
  · simp [show ¬ (24 + k < 16) by omega, show ¬ (24 + k - 16 < 8) by omega, show 24 + k - 16 - 8 = k by omega, BitVec.getLsbD_eq_getElem hk]
  · simp [show ¬ (16 + k < 16) by omega, show ¬ 8 ≤ k by omega]

theorem acq : Statement .acq := fields _ _
theorem val : Statement .val := fields _ _
theorem dec : Statement .dec := fields _ _
theorem ana (thr : Half) : Statement (.ana thr) := fields _ _
theorem alr : Statement .alr := fields _ _
theorem ren : Statement .ren := fields _ _
theorem prs : Statement .prs := fields _ _
theorem endCycle : Statement .endCycle := fields _ _
theorem rdr (n : Half) : Statement (.rdr n) := fields _ _
theorem rdt (i : Half) : Statement (.rdt i) := fields _ _

end Sys2Proof.Laws.TableRow
end

