-- ==== Sys2Proof/Laws/Safety.lean ====
section
/-! SUPPORT. What the invariants depend on, so that a step that leaves those parts alone keeps them. -/

namespace Sys2Proof.Machine

/-- The validity windows depend on the stage, the cycle-local state and the parameters. -/
theorem Windows.of_eq {s t : State} (h : Windows s) (stage : t.stage = s.stage) (cyc : t.cyc = s.cyc)
    (cfg : t.cfg = s.cfg) : Windows t := by
  cases s; cases t
  obtain rfl := stage
  obtain rfl := cyc
  obtain rfl := cfg
  exact { h with }

/-- The ranges of the detection registers depend on the cycle-local state. -/
theorem DetectionRange.of_eq {s t : State} (h : DetectionRange s) (cyc : t.cyc = s.cyc) : DetectionRange t := by
  cases s; cases t
  obtain rfl := cyc
  exact { h with }

/-- The invariants pass to a state with the same stage, cycle-local state and parameters, where the actuator is low,
`STATUS` holds a code, and `LAST_TRIG` is 0 or was given by the clock. -/
theorem Inv.of_eq {s t : State} (h : Inv s) (stage : t.stage = s.stage) (cyc : t.cyc = s.cyc) (cfg : t.cfg = s.cfg)
    (actLow : t.act = false) (status : t.status.toNat < 8)
    (lastTrig : t.lastTrig = 0 ∨ t.lastTrig ∈ t.env.clockGiven) : Inv t where
  actLow := actLow
  status := status
  windows := h.windows.of_eq stage cyc cfg
  detection := h.detection.of_eq cyc
  frame := by
    have hf := h.frame
    unfold frameAccepted at hf ⊢
    rwa [stage, cyc, cfg]
  grid := by
    have hg := h.grid
    unfold gridDecoded at hg ⊢
    rwa [stage, cyc]
  lastTrig := lastTrig

end Sys2Proof.Machine
end

