-- ==== Sys2Proof/Tests/Slice0.lean ====
section
/-! SUPPORT. Tests: expected values are those of spec/95_test_vectors.md or written out by hand from the rules; and for every
statement with hypotheses a witness that meets them. -/

namespace Sys2Proof.Tests

open Sys2Proof Sys2Proof.Machine

/-! ## Well-formedness: each check refuses an ill-formed term -/

theorem test_wf_ana_operand : (AsmLine.withImm .ana 65536).wellFormed = false ∧ (AsmLine.withImm .ana 65536).assemble = none := by
  decide

theorem test_wf_rdr_operand : (AsmLine.withImm .rdr 65536).wellFormed = false := by decide

theorem test_wf_rdt_operand : (AsmLine.withImm .rdt 65536).wellFormed = false := by decide

theorem test_wf_cycle_operand : (AsmLine.cycle 65536).wellFormed = false ∧ (AsmLine.cycle 65535).wellFormed = true := by decide

/-! ## Decoding (95 section 3): one word for each constructor, `op ++ rsv ++ imm16` written out -/

theorem test_decode_acq : decode 0b00000001_00000000_0000000000000000#32 = .command .acq := by decide
theorem test_decode_val : decode 0b00000010_00000000_0000000000000000#32 = .command .val := by decide
theorem test_decode_dec : decode 0b00000011_00000000_0000000000000000#32 = .command .dec := by decide
theorem test_decode_ana : decode 0b00000100_00000000_0000101110111000#32 = .command (.ana 3000) := by decide
theorem test_decode_ana_not_sign_extended : decode 0x0400FFFF#32 = .command (.ana 65535) := by decide
theorem test_decode_alr : decode 0b00000101_00000000_0000000000000000#32 = .command .alr := by decide
theorem test_decode_ren : decode 0b00000110_00000000_0000000000000000#32 = .command .ren := by decide
theorem test_decode_prs : decode 0b00000111_00000000_0000000000000000#32 = .command .prs := by decide
theorem test_decode_end : decode 0b00001000_00000000_0000000000000000#32 = .command .endCycle := by decide
theorem test_decode_rdr : decode 0b00010000_00000000_0000000000000111#32 = .command (.rdr 7) := by decide
theorem test_decode_rdt : decode 0b00010001_00000000_0000000011100101#32 = .command (.rdt 229) := by decide

theorem test_decode_illegal_op :
    decode 0x00000000#32 = .illegal .unknownOp ∧ decode 0x09000000#32 = .illegal .unknownOp ∧
    decode 0x0F000000#32 = .illegal .unknownOp ∧ decode 0x12000000#32 = .illegal .unknownOp ∧
    decode 0xFF000000#32 = .illegal .unknownOp := by decide

theorem test_decode_illegal_fields :
    decode 0x01000001#32 = .illegal .immediateNotZero ∧ decode 0x0800FFFF#32 = .illegal .immediateNotZero ∧
    decode 0x01010000#32 = .illegal .reservedNotZero ∧ decode 0x04010BB8#32 = .illegal .reservedNotZero ∧
    decode 0x10FF0000#32 = .illegal .reservedNotZero := by decide

theorem test_table_word :
    decodeTableWord 32 0x11000190 = some (.rdt 400) ∧ decodeTableWord 32 0x00000000 = none := by decide

/-! ## The assembler (30_encoding.md R87) -/

theorem test_assemble_ana :
    parseLine "ANA 3000 ; warm".toList = .line (.withImm .ana 3000) ∧
    (AsmLine.withImm .ana 3000).assemble = some [0x04000BB8#32] := by decide +kernel

theorem test_assemble_hex :
    parseLine "RDT 0x190".toList = .line (.withImm .rdt 400) ∧ parseLine "ANA 0xBb8".toList = .line (.withImm .ana 3000) ∧
    parseLine "RDR 0x".toList = .badLine ∧ parseLine "RDR 1A".toList = .badLine ∧ parseLine "; end".toList = .blank ∧
    parseLine "acq".toList = .badLine := by decide +kernel

theorem test_assemble_cycle :
    parseLine "CYCLE 3000".toList = .line (.cycle 3000) ∧
    (AsmLine.cycle 3000).assemble =
      some [0x01000000#32, 0x02000000#32, 0x03000000#32, 0x04000BB8#32, 0x05000000#32, 0x06000000#32, 0x07000000#32,
        0x08000000#32] := by decide +kernel

/-! ## Small states -/

/-- The parameters of 95 section 2, with `SX = SY = 1`. -/
def testParams : Config.Params where
  sentinel := 0x5A
  palette := Vector.ofFn fun g : Fin 256 => BitVec.ofNat 24 (g.val * 65536 + (255 - g.val))
  sx := 1
  sy := 1
  sentinel_ne := by decide
  sx_pos := by decide
  sy_pos := by decide
  sx_le := by decide
  sy_le := by decide

/-- The state after reset, with those parameters. -/
def base : State := { State.reset with cfg := testParams }

/-- A list of one value. Irreducible, so that only the kernel unfolds it. -/
@[irreducible] def many {w : Nat} (n : Nat) (v : BitVec w) : List (BitVec w) := List.replicate n v

theorem many_eq {w : Nat} (n : Nat) (v : BitVec w) : many n v = List.replicate n v := by unfold many; rfl

@[simp] theorem length_many {w : Nat} (n : Nat) (v : BitVec w) : (many n v).length = n := by
  rw [many_eq, List.length_replicate]

theorem eq_of_mem_many {w n : Nat} {u v : BitVec w} (h : u ∈ many n v) : u = v := by
  rw [many_eq] at h; exact List.eq_of_mem_replicate h

theorem mem_many {w n : Nat} (v : BitVec w) (h : n ≠ 0) : v ∈ many n v := by
  rw [many_eq]; exact List.mem_replicate.2 ⟨h, rfl⟩

def inStage (st : Stage) (c : Cycle) : State := { base with stage := st, cyc := c }

def offering (os : List Offer) (s : State) : State := { s with env := { s.env with offered := os } }

def answering (pending : List Bool) (reads : List (List Byte)) (clock : List Long) (s : State) : State :=
  { s with env := { s.env with pending := pending, reads := reads, clock := clock } }

/-- A next state of which `p` holds. -/
def nextHas (o : Host.Outcome State Fault Refusal) (p : State → Bool) : Bool :=
  match o with
  | .next t => p t
  | _ => false

theorem nextHas_next {o : Host.Outcome State Fault Refusal} {p : State → Bool} (h : nextHas o p = true) :
    ∃ t, o = .next t ∧ p t = true := by
  cases o with
  | next t => exact ⟨t, rfl, h⟩
  | fault r => cases h
  | refused r => cases h

/-- Frame `FA` of 95 section 2, byte for byte: all pixels 2500 and pixel 229 3500, with the trailing word given. -/
@[irreducible] def frameFA (lo hi : Byte) : List Byte :=
  [0x5A, 0x5A, 0x00, 0x06] ++ (List.replicate 229 ([0xC4, 0x09] : List Byte)).flatten ++ [0xAC, 0x0D] ++
    (List.replicate 538 ([0xC4, 0x09] : List Byte)).flatten ++ [0x00, 0x00, lo, hi]

/-- The frame of 95 section 4.2 row 4: all fields 0, the sum is the header word alone. -/
@[irreducible] def zeroFrame : List Byte := [0x5A, 0x5A] ++ many 1540 0 ++ [0x5A, 0x5A]

def loadedWith (frame : List Byte) : State := inStage .loaded { Cycle.empty with fb := Space.fill frame }

def validWith (frame : List Byte) : State :=
  inStage .valid { Cycle.empty with fb := Space.fill frame, dlen := some 0 }

def decodedWith (grid : List Half) : State := inStage .decoded { Cycle.empty with tg := Space.fill grid }

/-- `ANALYZED` with the given occupancy and `LAST_TRIG`, and one clock answer to come. -/
def analyzedWith (occ : Bool) (last now : Long) : State :=
  answering [] [] [now] { inStage .analyzed { Cycle.empty with occ := some occ } with lastTrig := last }

/-- The same, after the clock has answered `given`. -/
def clockWas (given : Long) (s : State) : State := { s with env := { s.env with clockGiven := [given] } }

/-- `ALERTED` with a grid and the detection registers `REN` reads. -/
def alertedWith (grid : List Half) (tmin span : Half) (hot : Option (BitVec 5 × BitVec 5)) : State :=
  inStage .alerted { Cycle.empty with
    tg := Space.fill grid
    tmin := some tmin
    span := some span
    hotv := some hot.isSome
    hotx := hot.map Prod.fst
    hoty := hot.map Prod.snd }

/-- `PRESENTED` after a whole cycle on `zeroFrame`, written out by the rules: every register holds a value but those of
the hottest pixel. -/
def presentedZero : State :=
  inStage .presented
    { fb := Space.fill zeroFrame, dlen := some 0, tg := Space.fill (many 768 0), selft := some 0x5A5A
      tmin := some 0, tmax := some 0, hotv := some false, hotx := none, hoty := none, occ := some false, span := some 100
      gray := Space.fill (many 768 0), color := Space.fill (many 768 0x0000FF)
      disp := Space.fill (many 768 0x0000FF), ovCt := some 0, ovHv := some false, ovHx := none, ovHy := none
      ovHt := none }

/-! ## One step of each command -/

/-- 95 section 4.1, first row. -/
theorem test_acq_no_data :
    nextHas (exec .acq (answering [false] [] [] base)) (fun t => t.status == 1 && t.stage == .idle && t.cyc == Cycle.empty) =
      true := by decide +kernel

/-- 95 section 4.1, a read one byte short: nothing is kept. -/
theorem test_acq_short_read :
    nextHas (exec .acq (answering [true] [many 1543 7] [] base))
      (fun t => t.status == 2 && t.stage == .idle && t.cyc.fb == []) = true := by decide +kernel

/-- 95 section 4.2 row 1. -/
theorem test_val_accepts :
    nextHas (exec .val (loadedWith (frameFA 0x42 0xB0))) (fun t => t.stage == .valid && t.cyc.dlen == some 1536) = true := by
  decide +kernel

/-- 95 section 4.2 row 13 (Scenario C). -/
theorem test_val_one_bit :
    nextHas (exec .val (loadedWith (frameFA 0x43 0xB0))) (fun t => t.status == 4 && t.stage == .idle && t.cyc.fb == []) = true := by
  decide +kernel

/-- 95 section 4.3, first row. -/
theorem test_dec_samples :
    nextHas (exec .dec (validWith (frameFA 0x42 0xB0)))
      (fun t => Space.read t.cyc.tg 229 == some 3500 && Space.read t.cyc.tg 767 == some 2500 && t.cyc.selft == some 45122) =
      true := by decide +kernel

/-- 95 section 5.2 row 6: the last pixel above the ceiling. -/
theorem test_ana_above_ceiling :
    nextHas (exec (.ana 3000) (decodedWith ([35000, 32000] ++ many 766 2500)))
      (fun t => t.cyc.tmin == some 2500 && t.cyc.tmax == some 30000 && t.cyc.hotx == some 1 && t.cyc.hoty == some 0 &&
        t.cyc.occ == some true && t.cyc.span == some 27500) = true := by decide +kernel

/-- 95 section 5.2 row 20: the largest threshold. -/
theorem test_ana_largest_threshold :
    nextHas (exec (.ana 65535) (decodedWith ([65535] ++ many 767 0)))
      (fun t => t.cyc.tmax == some 30000 && t.cyc.hotv == some true && t.cyc.occ == some false && t.cyc.span == some 30000) =
      true := by decide +kernel

/-- 95 section 5.3: the scan trace after pixel 7. -/
theorem test_scan_trace :
    scanGrid 2650 [2600, 2500, 2700, 2400, 2700, 30001, 30005, 30002] = ⟨2400, 30000, some (7, 0), true⟩ := by decide

/-- 95 section 6 rows 1 and 2: strict. -/
theorem test_alr_boundary :
    nextHas (exec .alr (analyzedWith true 0 500)) (fun t => t.events == [] && t.lastTrig == 0 && t.responses == [⟨.ok, 0⟩]) = true ∧
    nextHas (exec .alr (analyzedWith true 0 501))
      (fun t => t.events == [.actSet true, .hold 100, .actSet false] && t.lastTrig == 501 && t.responses == [⟨.ok, 1⟩] &&
        t.act == false) = true := by decide +kernel

/-- 95 section 6 row 11: no wrap. -/
theorem test_alr_no_wrap :
    nextHas (exec .alr (analyzedWith true 1000 0xFFFFFFFFFFFFFFFF)) (fun t => t.lastTrig == 0xFFFFFFFFFFFFFFFF) = true := by
  decide +kernel

/-- 95 section 7.1, rows at ties, at the clamp and at the bounds. -/
theorem test_normalise_table :
    normalise 2500 1000 2750 = 64 ∧ normalise 2500 1000 3000 = 128 ∧ normalise 1000 510 1001 = 1 ∧
    normalise 1000 510 1005 = 3 ∧ normalise 2500 27500 35000 = 255 ∧ normalise 0 30000 58 = 0 ∧ normalise 0 30000 59 = 1 ∧
    normalise 0 30000 29941 = 254 ∧ normalise 30000 100 30001 = 3 ∧ normalise 0 1 65535 = 255 := by decide

/-- 95 section 7.2, frame `FH` with `SX = SY = 1`: the marker carries the unclamped temperature. -/
theorem test_ren_marker :
    nextHas (exec .ren (alertedWith ([35000, 32000] ++ many 766 2500) 2500 27500 (some (1, 0))))
      (fun t => t.cyc.ovCt == some 2500 && t.cyc.ovHx == some 1 && t.cyc.ovHy == some 0 && t.cyc.ovHt == some 32000 &&
        Space.read t.cyc.disp 1 == some 0xFF0000 && Space.read t.cyc.disp 767 == some 0x0000FF) = true := by decide +kernel

/-- 95 section 7.2, the cold grid: one `Present` without a marker. -/
theorem test_prs_event :
    nextHas (exec .prs { presentedZero with stage := .rendered })
      (fun t => t.stage == .presented &&
        t.events == [.present (Space.fill (many 768 0x0000FF)) ⟨0, false, none, none, none⟩]) = true := by
  decide +kernel

/-- 95 section 8, last row. -/
theorem test_end_cleans :
    nextHas (exec .endCycle { presentedZero with lastTrig := 1000 })
      (fun t => t.stage == .idle && t.cyc == Cycle.empty && t.lastTrig == 1000 && t.responses == [⟨.ok, 0⟩]) = true := by
  decide +kernel

/-- 95 section 9: the register numbers, at a state whose registers hold distinct values. -/
theorem test_rdr_numbers :
    ((fun s : State => regMap.map s.readReg) { inStage .presented
        { Cycle.empty with
          dlen := some 1536, selft := some 45122, tmin := some 2500, tmax := some 3500, span := some 1000, occ := some true
          hotv := some true, hotx := some 5, hoty := some 7, ovCt := some 2501, ovHv := some true, ovHx := some 50
          ovHy := some 70, ovHt := some 3501 } with lastTrig := 999, status := 6 }) =
      [some 7, some 6, some 0, some 999, some 1536, some 45122, some 2500, some 3500, some 1000, some 1, some 1, some 5,
        some 7, some 2501, some 1, some 50, some 70, some 3501] := by decide +kernel

/-- 95 section 9: after reset, and `STATUS` is not written. -/
theorem test_rdr_after_reset :
    nextHas (exec (.rdr 4) base) (fun t => t.responses == [⟨.badStage, 0⟩] && t.status == 0) = true ∧
    nextHas (exec (.rdr 18) base) (fun t => t.responses == [⟨.badIndex, 0⟩]) = true := by decide +kernel

/-- 95 section 9: the index is checked before the stage. -/
theorem test_rdt_checks :
    nextHas (exec (.rdt 768) base) (fun t => t.responses == [⟨.badIndex, 0⟩]) = true ∧
    nextHas (exec (.rdt 0) base) (fun t => t.responses == [⟨.badStage, 0⟩]) = true := by decide +kernel

theorem test_rdt_value :
    nextHas (exec (.rdt 767) (decodedWith (many 767 0 ++ [65535]))) (fun t => t.responses == [⟨.ok, 65535⟩]) = true := by
  decide +kernel

/-- 95 section 3: an illegal word answers in any stage. -/
theorem test_illegal_word :
    nextHas (step (State.reset.withFetchWord 32 0x09000000)) (fun t => t.status == 6 && t.responses == [⟨.illegalCommand, 0⟩]) =
      true := by decide

theorem test_first_step_runs_the_word :
    nextHas (step (State.reset.withFetchWord 32 0x110002FF)) (fun t => t.responses == [⟨.badStage, 0⟩]) = true := by decide

/-! ## Witnesses: states and operands that meet the hypotheses of each statement -/

theorem contents_many {w : Nat} (n : Nat) (v : BitVec w) :
    Space.contents n (Space.fill (many n v)) = some (many n v) :=
  Space.contents_fill_of_length (length_many _ _)

theorem bufferOn {w n : Nat} {sp : Space w} {p : Prop} (h : (Space.contents n sp).isSome) (hp : p) : bufferWindow n sp p :=
  ⟨fun _ => h, fun hn => absurd hp hn⟩

theorem bufferOff {w n : Nat} {sp : Space w} {p : Prop} (h : sp = []) (hp : ¬ p) : bufferWindow n sp p :=
  ⟨fun h' => absurd h' hp, fun _ => h⟩

theorem regOn {α : Type} {r : Option α} {p : Prop} (h : r.isSome = true) (hp : p) : regWindow r p := ⟨fun _ => hp, fun _ => h⟩

theorem regOff {α : Type} {r : Option α} {p : Prop} (h : r.isSome = false) (hp : ¬ p) : regWindow r p :=
  ⟨fun h' => absurd (h'.symm.trans h) Bool.noConfusion, fun h' => absurd h' hp⟩

theorem test_witness_decodeOfEncode : (Instr.ana 3000).wellFormed = true := by decide

theorem test_witness_encodeOfDecode : decode 0x1100FFFF#32 = .command (.rdt 65535) := by decide

/-- Each clause of the decoder's pseudocode, at the edges of the ranges. -/
theorem test_witness_decodePseudocode :
    (0x00010000#32).toNat / 65536 % 256 ≠ 0 ∧ (0x10FF0000#32).toNat / 65536 % 256 ≠ 0 ∧
    ((0x08000000#32).toNat / 65536 % 256 = 0 ∧ (0x08000000#32).toNat / 16777216 = 0x08 ∧ (0x08000000#32).toNat % 65536 = 0) ∧
    ((0x01000001#32).toNat / 16777216 = 0x01 ∧ (0x01000001#32).toNat % 65536 ≠ 0) ∧
    (0x0400FFFF#32).toNat / 16777216 = 0x04 ∧ (0x10000012#32).toNat / 16777216 = 0x10 ∧
    (0x11000300#32).toNat / 16777216 = 0x11 ∧
    (0x09000000#32).toNat / 16777216 ∉ [0x01, 0x02, 0x03, 0x04, 0x05, 0x06, 0x07, 0x08, 0x10, 0x11] ∧
    17 < (18 : Half).toNat ∧ 767 < (768 : Half).toNat := by decide

theorem test_witness_cycle : (65535 : Nat) < 65536 := by decide

theorem test_witness_stepRuns :
    (offering [.command 0x04000BB8, .reset] base).env.offered = .command 0x04000BB8 :: [.reset] ∧
    decode 0x04000BB8#32 = .command (.ana 3000) ∧ (Instr.ana 3000).wellFormed = true := ⟨rfl, by decide, by decide⟩

theorem test_witness_illegalWord :
    (offering [.command 0xFFFFFFFF] base).env.offered = .command 0xFFFFFFFF :: [] ∧
    decode 0xFFFFFFFF#32 = .illegal .reservedNotZero := ⟨rfl, by decide⟩

theorem test_witness_waitingAndReset :
    base.env.offered = [] ∧ (offering [.reset] base).env.offered = .reset :: [] := ⟨rfl, rfl⟩

theorem test_witness_environment :
    (answering [true] [[1]] [5] base).env.pending = true :: [] ∧ (answering [true] [[1]] [5] base).env.reads = [1] :: [] ∧
    (answering [true] [[1]] [5] base).env.clock = 5 :: [] ∧
    base.env.pending = [] ∧ base.env.reads = [] ∧ base.env.clock = [] := ⟨rfl, rfl, rfl, rfl, rfl, rfl⟩

/-- `ACQ`: out of stage, nothing pending, one byte short, exactly a frame. -/
theorem test_witness_acq :
    (loadedWith zeroFrame).stage ≠ .idle ∧
    (base.stage = .idle ∧ sensorPending (answering [false] [] [] base) = (false, base)) ∧
    (sensorPending (answering [true] [many 1543 0] [] base) = (true, answering [] [many 1543 0] [] base) ∧
      sensorRead (answering [] [many 1543 0] [] base) = (many 1543 0, base) ∧
      (many 1543 (0 : Byte)).length < 1544) ∧
    (sensorPending (answering [true] [many 1544 0] [] base) = (true, answering [] [many 1544 0] [] base) ∧
      sensorRead (answering [] [many 1544 0] [] base) = (many 1544 0, base) ∧
      (many 1544 (0 : Byte)).length = 1544) :=
  ⟨by decide, ⟨rfl, rfl⟩, ⟨rfl, rfl, by rw [length_many]; decide⟩, ⟨rfl, rfl, length_many _ _⟩⟩

theorem test_witness_acqLongRead :
    base.stage = .idle ∧
    sensorPending (answering [true] [many 1545 0] [] base) = (true, answering [] [many 1545 0] [] base) ∧
    (answering [true] [many 1545 0] [] base).env.reads = many 1545 0 :: [] ∧
    1544 < (many 1545 (0 : Byte)).length :=
  ⟨rfl, rfl, rfl, by rw [length_many]; decide⟩

theorem loadedWith_contents {frame : List Byte} (h : frame.length = 1544) :
    Space.contents 1544 (loadedWith frame).cyc.fb = some frame := Space.contents_fill_of_length h

theorem zeroFrame_length : zeroFrame.length = 1544 := by decide +kernel

theorem zeroFrame_accepted : headerOk 0x5A zeroFrame = true ∧ checksum zeroFrame = trailingWord zeroFrame := by decide +kernel

/-- `VAL`: out of stage, each header byte wrong, checksum wrong, accepted; the sums by `checksum_toNat`. -/
theorem test_witness_val :
    base.stage ≠ .loaded ∧
    (Space.contents 1544 (loadedWith zeroFrame).cyc.fb = some zeroFrame ∧ zeroFrame.getD 0 0 = testParams.sentinel ∧
      zeroFrame.getD 1 0 = testParams.sentinel ∧
      (∑ k ∈ Finset.range 771, (le16At zeroFrame (2 * k)).toNat) % 65536 = (le16At zeroFrame 1542).toNat) ∧
    ((zeroFrame.set 0 0).getD 0 0 ≠ testParams.sentinel ∧ (zeroFrame.set 0 0).length = 1544) ∧
    ((zeroFrame.set 1 0x5B).getD 1 0 ≠ testParams.sentinel ∧ (zeroFrame.set 1 0x5B).length = 1544) ∧
    ((zeroFrame.set 1541 1).length = 1544 ∧ (zeroFrame.set 1541 1).getD 0 0 = testParams.sentinel ∧
      (zeroFrame.set 1541 1).getD 1 0 = testParams.sentinel ∧
      (∑ k ∈ Finset.range 771, (le16At (zeroFrame.set 1541 1) (2 * k)).toNat) % 65536 ≠
        (le16At (zeroFrame.set 1541 1) 1542).toNat) := by
  have hl : ∀ (i : Nat) (v : Byte), (zeroFrame.set i v).length = 1544 := fun i v => by
    rw [List.length_set, zeroFrame_length]
  refine ⟨by decide, ⟨loadedWith_contents zeroFrame_length, by decide +kernel, by decide +kernel, ?_⟩,
    ⟨by decide +kernel, hl 0 0⟩, ⟨by decide +kernel, hl 1 0x5B⟩, ⟨hl 1541 1, by decide +kernel, by decide +kernel, ?_⟩⟩
  · rw [← checksum_toNat zeroFrame_length, ← trailingWord_eq zeroFrame_length, zeroFrame_accepted.2]
  · rw [← checksum_toNat (hl 1541 1), ← trailingWord_eq (hl 1541 1)]
    decide +kernel

/-- A flip at the first and last header bit, and at the first and last bit behind the header. -/
theorem test_witness_flip :
    (loadedWith zeroFrame).stage = .loaded ∧ zeroFrame.length = 1544 ∧
    headerOk (loadedWith zeroFrame).cfg.sentinel zeroFrame = true ∧ checksum zeroFrame = trailingWord zeroFrame ∧
    (0 < 1544 ∧ 1 < 1544 ∧ 2 < 1544 ∧ 1543 < 1544) ∧ (0 < 8 ∧ 7 < 8) :=
  ⟨rfl, zeroFrame_length, zeroFrame_accepted.1, zeroFrame_accepted.2, by decide, by decide⟩

/-- Word 0 loses one, word 770 gains one: a frame that differs from `zeroFrame` in bytes 0 and 1540. -/
theorem test_witness_cancelling :
    zeroFrame.length = 1544 ∧ (((zeroFrame.set 0 0x59).set 1540 1)).length = 1544 ∧ 770 < 771 ∧ 0 < 771 ∧ 770 ≠ 0 ∧
    le16At ((zeroFrame.set 0 0x59).set 1540 1) (2 * 770) = le16At zeroFrame (2 * 770) + 1 ∧
    le16At ((zeroFrame.set 0 0x59).set 1540 1) (2 * 0) = le16At zeroFrame (2 * 0) - 1 ∧
    (∀ k, k < 771 → k ≠ 770 → k ≠ 0 →
      le16At ((zeroFrame.set 0 0x59).set 1540 1) (2 * k) = le16At zeroFrame (2 * k)) := by
  refine ⟨zeroFrame_length, by rw [List.length_set, List.length_set, zeroFrame_length], by decide, by decide, by decide,
    by decide +kernel, by decide +kernel, fun k _ h1 h2 => ?_⟩
  have hne : ∀ o, o ≠ 1540 → o ≠ 0 → ((zeroFrame.set 0 0x59).set 1540 1).getD o 0 = zeroFrame.getD o 0 := fun o h h' => by
    rw [List.getD_eq_getElem?_getD, List.getElem?_set_ne (Ne.symm h), List.getElem?_set_ne (Ne.symm h'),
      ← List.getD_eq_getElem?_getD]
  rw [le16At, hne (2 * k) (by omega) (by omega), hne (2 * k + 1) (by omega) (by omega)]
  rfl

theorem test_witness_trailingWord : (many 1542 (0 : Byte)).length = 1542 := length_many _ _

theorem test_witness_dec :
    base.stage ≠ .valid ∧ (validWith zeroFrame).stage = .valid ∧
    Space.contents 1544 (validWith zeroFrame).cyc.fb = some zeroFrame :=
  ⟨by decide, rfl, Space.contents_fill_of_length zeroFrame_length⟩

theorem test_witness_selfTemperature :
    ∃ t, (loadedWith zeroFrame).stage = .loaded ∧ Space.contents 1544 (loadedWith zeroFrame).cyc.fb = some zeroFrame ∧
      exec .val (loadedWith zeroFrame) = .next t ∧ t.stage = .valid := by
  obtain ⟨t, ht, hs⟩ := nextHas_next (o := exec .val (loadedWith zeroFrame)) (p := fun t => t.stage == .valid)
    (by decide +kernel)
  exact ⟨t, rfl, loadedWith_contents zeroFrame_length, ht, by simpa using hs⟩

/-- The frame of the round trip with length, samples and spare word 0 is `zeroFrame`. -/
theorem test_witness_roundTrip :
    (many 768 (0 : Half)).length = 768 ∧ (loadedWith zeroFrame).stage = .loaded ∧
    (0x5A5A : Half) = ((loadedWith zeroFrame).cfg.sentinel ++ (loadedWith zeroFrame).cfg.sentinel) + 0 +
      (many 768 (0 : Half)).foldl (· + ·) 0 + 0 ∧
    zeroFrame =
      ((((loadedWith zeroFrame).cfg.sentinel ++ (loadedWith zeroFrame).cfg.sentinel : Half) :: 0 ::
          many 768 (0 : Half)) ++ [0, 0x5A5A]).flatMap
        fun v : Half => [v.setWidth 8, (v >>> 8).setWidth 8] :=
  ⟨length_many _ _, rfl, by decide +kernel, by decide +kernel⟩

/-- `ANA` out of stage, and in stage with a grid. -/
theorem test_witness_ana :
    base.stage ≠ .decoded ∧ (decodedWith (many 768 0)).stage = .decoded ∧
    Space.contents 768 (decodedWith (many 768 0)).cyc.tg = some (many 768 0) :=
  ⟨by decide, rfl, contents_many 768 0⟩

theorem decodedWith_contents (v : Half) :
    Space.contents 768 (decodedWith (many 768 v)).cyc.tg = some (many 768 v) := contents_many 768 v

/-- Extremes at the bottom and at the top of the range. -/
theorem test_witness_extremes (v : Half) :
    (decodedWith (many 768 v)).stage = .decoded ∧
    (∀ u ∈ many 768 v, v.toNat ≤ u.toNat) ∧ (∃ u ∈ many 768 v, u.toNat = v.toNat) ∧
    (∀ u ∈ many 768 v, u.toNat ≤ v.toNat) := by
  have h : ∀ u ∈ many 768 v, u = v := fun u hu => eq_of_mem_many hu
  exact ⟨rfl, fun u hu => by rw [h u hu], ⟨v, mem_many v (by decide), rfl⟩, fun u hu => by rw [h u hu]⟩

/-- All pixels 0, and the smallest grid that is not all 0. -/
theorem test_witness_noHottest :
    (∀ v ∈ many 768 (0 : Half), v = 0) ∧
    Space.contents 768 (decodedWith (many 767 0 ++ [1])).cyc.tg = some (many 767 0 ++ [1]) ∧
    (∃ v ∈ many 767 (0 : Half) ++ [1], v ≠ 0) :=
  ⟨fun _ h => eq_of_mem_many h, Space.contents_fill_of_length (by simp), ⟨1, by simp, by decide⟩⟩

/-- A largest value of exactly 30000 at index 0, and one of 30001 at index 767. -/
theorem test_witness_hottest :
    ((many 768 (30000 : Half))[0]? = some 30000 ∧ 0 < (30000 : Half).toNat ∧ (30000 : Half).toNat ≤ 30000 ∧
      (∀ u ∈ many 768 (30000 : Half), u.toNat ≤ (30000 : Half).toNat) ∧
      ∀ (k : Nat) (u : Half), k < 0 → (many 768 (30000 : Half))[k]? = some u → u.toNat < (30000 : Half).toNat) ∧
    ((many 768 (30001 : Half))[767]? = some 30001 ∧ 30000 < (30001 : Half).toNat ∧
      ∀ (k : Nat) (u : Half), 767 < k → (many 768 (30001 : Half))[k]? = some u → u.toNat ≤ 30000) := by
  refine ⟨⟨by decide +kernel, by decide, by decide, fun u hu => by rw [eq_of_mem_many hu], fun k u h => by omega⟩,
    by decide +kernel, by decide, fun k u h hu => ?_⟩
  rw [List.getElem?_eq_none (by rw [length_many]; omega)] at hu
  cases hu

theorem test_witness_occupancy : (29999 : Half).toNat < 30000 ∧ 30000 ≤ (30000 : Half).toNat := by decide

/-- The running maximum met, and exceeded by one. -/
theorem test_witness_scanPixel : (0 : Nat) ≤ scanInit.tmax ∧ scanInit.tmax < 1 := by decide

theorem test_witness_gridOnly :
    (decodedWith (many 768 7)).stage = .decoded ∧
    ({ decodedWith (many 768 7) with lastTrig := 5, status := 6 } : State).stage = .decoded ∧
    ({ decodedWith (many 768 7) with lastTrig := 5, status := 6 } : State).cyc.tg =
      (decodedWith (many 768 7)).cyc.tg ∧
    Space.contents 768 (decodedWith (many 768 7)).cyc.tg = some (many 768 7) :=
  ⟨rfl, rfl, rfl, decodedWith_contents 7⟩

/-- `ALR`: out of stage; elapsed 501 and 500 with occupancy; no occupancy; a clock one below `LAST_TRIG`; a clock that
repeats its last answer, and one a millisecond below it. -/
theorem test_witness_alr :
    base.stage ≠ .analyzed ∧
    ((analyzedWith true 1000 1501).stage = .analyzed ∧ (clockNow (analyzedWith true 1000 1501)).1 = 1501 ∧
      (analyzedWith true 1000 1501).env.clockGiven.headD 0 ≤ 1501 ∧
      (analyzedWith true 1000 1501).cyc.occ = some true ∧ 500 < (1501 : Long).toNat - (1000 : Long).toNat) ∧
    ((clockNow (analyzedWith true 1000 1500)).1 = 1500 ∧ (1500 : Long).toNat - (1000 : Long).toNat ≤ 500 ∧
      (1500 : Long).toNat - (1000 : Long).toNat = 500 ∧ (analyzedWith true 1000 1500).lastTrig ≤ 1500) ∧
    ((analyzedWith false 1000 1000).cyc.occ = some false ∧ (analyzedWith false 1000 1000).lastTrig ≤ 1000) ∧
    ((clockNow (analyzedWith true 1000 999)).1 = 999 ∧ (999 : Long) < (analyzedWith true 1000 999).lastTrig) ∧
    ((clockNow (clockWas 1700 (analyzedWith true 1000 1700))).1 = 1700 ∧
      (clockWas 1700 (analyzedWith true 1000 1700)).env.clockGiven.headD 0 ≤ 1700) ∧
    ((clockWas 1700 (analyzedWith true 1000 1699)).stage = .analyzed ∧
      (clockWas 1700 (analyzedWith true 1000 1699)).cyc.occ = some true ∧
      (clockNow (clockWas 1700 (analyzedWith true 1000 1699))).1 = 1699 ∧
      (clockWas 1700 (analyzedWith true 1000 1699)).lastTrig ≤ 1699 ∧
      1699 < (clockWas 1700 (analyzedWith true 1000 1699)).env.clockGiven.headD 0) := by
  decide +kernel

/-- 95 section 6, the sequences 1000, 1500 and 1000, 1501. -/
theorem test_witness_debounce :
    ∃ s', (analyzedWith true 0 1000).stage = .analyzed ∧ exec .alr (analyzedWith true 0 1000) = .next s' ∧
      s'.responses = (analyzedWith true 0 1000).responses ++ [⟨.ok, 1⟩] ∧ (clockNow (analyzedWith true 0 1000)).1 = 1000 ∧
      (clockWas 1500 (analyzedWith true 1000 1500)).lastTrig = s'.lastTrig ∧
      (clockWas 1500 (analyzedWith true 1000 1501)).lastTrig = s'.lastTrig ∧
      (clockWas 1500 (analyzedWith true 1000 1500)).env.clockGiven.headD 0 ≤ 1500 ∧
      (clockWas 1500 (analyzedWith true 1000 1501)).env.clockGiven.headD 0 ≤ 1501 ∧
      (clockWas 1500 (analyzedWith true 1000 1500)).cyc.occ = some true ∧ (1500 : Long).toNat - (1000 : Long).toNat ≤ 500 ∧
      500 < (1501 : Long).toNat - (1000 : Long).toNat := by
  obtain ⟨t, ht, hp⟩ := nextHas_next (o := exec .alr (analyzedWith true 0 1000))
    (p := fun t => t.responses == [⟨.ok, 1⟩] && t.lastTrig == 1000) (by decide +kernel)
  simp only [Bool.and_eq_true, beq_iff_eq] at hp
  exact ⟨t, rfl, ht, hp.1, rfl, hp.2.symm, hp.2.symm, by decide, by decide, rfl, by decide, by decide⟩

/-- `LAST_TRIG` changed by a firing, and by reset. -/
theorem test_witness_lastTrig :
    (∃ t, step (offering [.command 0x05000000] (analyzedWith true 0 501)) = .next t ∧ t.lastTrig ≠ 0) ∧
    (∃ t, step (offering [.reset] (analyzedWith true 5 501)) = .next t ∧ t.lastTrig ≠ 5) := by
  obtain ⟨t, ht, hp⟩ := nextHas_next (o := step (offering [.command 0x05000000] (analyzedWith true 0 501)))
    (p := fun t => t.lastTrig != 0) (by decide +kernel)
  obtain ⟨u, hu, hq⟩ := nextHas_next (o := step (offering [.reset] (analyzedWith true 5 501)))
    (p := fun t => t.lastTrig != 5) (by decide +kernel)
  exact ⟨⟨t, ht, by simpa using hp⟩, ⟨u, hu, by simpa using hq⟩⟩

/-- `REN`: out of stage, without a hottest pixel, and with one at the last index. -/
theorem test_witness_ren :
    base.stage ≠ .alerted ∧
    ((alertedWith (many 768 0) 0 100 none).stage = .alerted ∧
      Space.contents 768 (alertedWith (many 768 0) 0 100 none).cyc.tg = some (many 768 0) ∧
      (alertedWith (many 768 0) 0 100 none).cyc.tmin = some 0 ∧
      (alertedWith (many 768 0) 0 100 none).cyc.span = some 100 ∧ 1 ≤ (100 : Half).toNat ∧
      (∀ v ∈ many 768 (0 : Half), (0 : Half).toNat ≤ v.toNat) ∧
      (alertedWith (many 768 0) 0 100 none).cyc.hotv = some false) ∧
    (Space.contents 768 (alertedWith (many 767 1 ++ [2]) 1 1 (some (31, 23))).cyc.tg =
        some (many 767 1 ++ [2]) ∧
      (∀ v ∈ many 767 (1 : Half) ++ [2], (1 : Half).toNat ≤ v.toNat) ∧
      (alertedWith (many 767 1 ++ [2]) 1 1 (some (31, 23))).cyc.hotx = some 31 ∧
      (alertedWith (many 767 1 ++ [2]) 1 1 (some (31, 23))).cyc.hoty = some 23 ∧
      (many 767 (1 : Half) ++ [2])[32 * (23 : BitVec 5).toNat + (31 : BitVec 5).toNat]? = some 2) := by
  refine ⟨by decide, ⟨rfl, contents_many 768 0, rfl, rfl, by decide, fun v _ => Nat.zero_le _, rfl⟩,
    ⟨Space.contents_fill_of_length (by simp), fun v hv => ?_, rfl, rfl, by decide +kernel⟩⟩
  rcases List.mem_append.1 hv with h | h
  · rw [eq_of_mem_many h]
  · rw [List.mem_singleton.1 h]; decide

/-- The bounds of the normalisation, and both clauses at the ceiling. -/
theorem test_witness_normalise :
    ((1 : Nat) ≤ 30000 ∧ (30000 : Nat) ≤ 30000 ∧ (0 : Nat) ≤ 65535 ∧ (65535 : Nat) ≤ 65535) ∧
    ((0 : Nat) < 1 ∧ (1 : Nat) ≤ 1) ∧ ((30000 : Nat) ≤ 30000 ∧ (30100 : Nat) ≤ 30100) := by decide

/-- The last sensor pixel and its only display pixel at scale 1. -/
theorem test_witness_upscale :
    (many 768 (0 : Colour)).length = 768 ∧ 31 < 32 ∧ 23 < 24 ∧ 0 < testParams.sx ∧ 0 < testParams.sy ∧
    testParams.sx = 1 ∧ testParams.sy = 1 := ⟨length_many _ _, by decide, by decide, by decide, by decide, rfl, rfl⟩

theorem test_witness_prs :
    presentedZero.stage ≠ .rendered ∧ ({ presentedZero with stage := .rendered } : State).stage = .rendered ∧
    presentedZero.cyc.ovCt = some 0 ∧ presentedZero.cyc.ovHv = some false ∧
    (Space.contents (32 * presentedZero.cfg.sx * (24 * presentedZero.cfg.sy)) presentedZero.cyc.disp).isSome :=
  ⟨by decide, rfl, rfl, rfl, by
    rw [show 32 * presentedZero.cfg.sx * (24 * presentedZero.cfg.sy) = 768 from rfl,
      show presentedZero.cyc.disp = Space.fill (many 768 0x0000FF) from rfl, contents_many]
    rfl⟩

/-- `RDR`: number 18, number 17 holding nothing, number 3 holding a value. -/
theorem test_witness_rdr :
    17 < (18 : Half).toNat ∧ (17 : Half).toNat = 17 ∧ base.cyc.ovHt.map BitVec.toNat = none ∧
    some base.lastTrig.toNat = some 0 := by decide

/-- The invariants hold of the state after a whole cycle on `zeroFrame`. -/
theorem presentedZero_inv : Inv presentedZero where
  actLow := rfl
  status := by decide
  windows := by
    have gridFull : ∀ {w : Nat} (v : BitVec w), (Space.contents 768 (Space.fill (many 768 v))).isSome :=
      fun v => by rw [contents_many]; rfl
    have frameFull : (Space.contents 1544 (Space.fill zeroFrame)).isSome := by
      rw [Space.contents_fill_of_length zeroFrame_length]; rfl
    constructor
    · exact bufferOn frameFull (by decide)
    · exact regOn rfl (by decide)
    · exact bufferOn (gridFull 0) (by decide)
    · exact regOn rfl (by decide)
    · exact regOn rfl (by decide)
    · exact regOn rfl (by decide)
    · exact regOn rfl (by decide)
    · exact regOff rfl (by decide)
    · exact regOff rfl (by decide)
    · exact regOn rfl (by decide)
    · exact regOn rfl (by decide)
    · exact bufferOn (gridFull 0) (by decide)
    · exact bufferOn (gridFull 0x0000FF) (by decide)
    · exact bufferOn (gridFull 0x0000FF) (by decide)
    · exact regOn rfl (by decide)
    · exact regOn rfl (by decide)
    · exact regOff rfl (by decide)
    · exact regOff rfl (by decide)
    · exact regOff rfl (by decide)
  detection := by
    refine ⟨?_, ?_, ?_, ?_, ?_⟩
    · rintro a b ⟨⟩ ⟨⟩; decide
    · rintro b ⟨⟩; decide
    · rintro d ⟨⟩; decide
    · rintro y ⟨⟩
    · rintro a i t ⟨⟩ _; exact Nat.zero_le _
  frame := by
    intro _ frame h
    have e : some zeroFrame = some frame := (Space.contents_fill_of_length zeroFrame_length).symm.trans h
    obtain rfl := Option.some.inj e
    exact ⟨zeroFrame_accepted.1, zeroFrame_accepted.2, by decide +kernel⟩
  grid := by
    intro _ frame h
    have e : some zeroFrame = some frame := (Space.contents_fill_of_length zeroFrame_length).symm.trans h
    obtain rfl := Option.some.inj e
    have hg : samples zeroFrame = many 768 0 := by decide +kernel
    exact ⟨by rw [hg]; rfl, by decide +kernel⟩
  lastTrig := .inl rfl

/-- The invariants hold after reset, for the test's parameters. -/
theorem base_inv : Inv base where
  actLow := rfl
  status := by decide
  windows := by
    constructor
    · exact bufferOff rfl (by decide)
    · exact regOff rfl (by decide)
    · exact bufferOff rfl (by decide)
    · exact regOff rfl (by decide)
    · exact regOff rfl (by decide)
    · exact regOff rfl (by decide)
    · exact regOff rfl (by decide)
    · exact regOff rfl (by decide)
    · exact regOff rfl (by decide)
    · exact regOff rfl (by decide)
    · exact regOff rfl (by decide)
    · exact bufferOff rfl (by decide)
    · exact bufferOff rfl (by decide)
    · exact bufferOff rfl (by decide)
    · exact regOff rfl (by decide)
    · exact regOff rfl (by decide)
    · exact regOff rfl (by decide)
    · exact regOff rfl (by decide)
    · exact regOff rfl (by decide)
  detection := ⟨fun _ _ h => (by cases h), fun _ h => (by cases h), fun _ h => (by cases h), fun _ h => (by cases h),
    fun _ _ _ h => (by cases h)⟩
  frame := fun h => absurd h (by decide)
  grid := fun h => absurd h (by decide)
  lastTrig := .inl rfl

/-- Outside the window by the stage (register 4 and 17 after reset), and by `HOTV` or `OV_HV` (11 and 15 after the cold
cycle); inside it (3 after reset, 14 after the cold cycle). -/
theorem test_witness_rdrWindow :
    Inv base ∧ base.stage.code.toNat < 2 ∧ (4 : Half).toNat = 4 ∧ 13 ≤ (17 : Half).toNat ∧ (17 : Half).toNat ≤ 17 ∧
    base.stage.code.toNat < 6 ∧ (3 : Half).toNat ≤ 3 ∧
    Inv presentedZero ∧ ((11 : Half).toNat = 11 ∧ presentedZero.cyc.hotv = some false) ∧
    (15 ≤ (15 : Half).toNat ∧ presentedZero.cyc.ovHv = some false) ∧
    ((14 : Half).toNat < 15 ∧ ¬ presentedZero.stage.code.toNat < 6) :=
  ⟨base_inv, by decide, by decide, by decide, by decide, by decide, by decide, presentedZero_inv, ⟨by decide, rfl⟩,
    ⟨by decide, rfl⟩, ⟨by decide, by decide⟩⟩

/-- `RDT`: index 768; index 767 in stage 2; index 767 in stage 3. -/
theorem test_witness_rdt :
    767 < (768 : Half).toNat ∧ (767 : Half).toNat ≤ 767 ∧ (validWith zeroFrame).stage.code.toNat < 3 ∧
    3 ≤ (decodedWith (many 768 9)).stage.code.toNat ∧
    Space.read (decodedWith (many 768 9)).cyc.tg (767 : Half).toNat = some 9 :=
  ⟨by decide, by decide, by decide, by decide, by decide +kernel⟩

theorem test_witness_vanish :
    (∃ t, exec .endCycle presentedZero = .next t) ∧ (4 : Half).toNat = 4 ∧ (17 : Half).toNat = 17 ∧ (3 : Half).toNat = 3 ∧
    (767 : Half).toNat = 767 := ⟨⟨_, rfl⟩, by decide, by decide, by decide, by decide⟩

/-- After `END`, `ACQ` answers a next state. -/
theorem test_witness_endThenAcq :
    ∃ t u, exec .endCycle (answering [false] [] [] presentedZero) = .next t ∧ exec .acq t = .next u := by
  obtain ⟨u, hu, -⟩ := nextHas_next
    (o := exec .acq (State.respond { (answering [false] [] [] presentedZero).cleanup with stage := .idle } .ok 0))
    (p := fun _ => true) (by decide +kernel)
  exact ⟨_, u, rfl, hu⟩

/-- A step that changes the stage: by a command, and by reset. -/
theorem test_witness_stageTransitions :
    (∃ t, step (offering [.command 0x05000000] (analyzedWith true 0 501)) = .next t ∧ t.stage ≠ .analyzed) ∧
    (∃ t, step (offering [.reset] presentedZero) = .next t ∧ t.stage ≠ .presented) := by
  obtain ⟨t, ht, hp⟩ := nextHas_next (o := step (offering [.command 0x05000000] (analyzedWith true 0 501)))
    (p := fun t => t.stage != .analyzed) (by decide +kernel)
  obtain ⟨u, hu, hq⟩ := nextHas_next (o := step (offering [.reset] presentedZero))
    (p := fun t => t.stage != .presented) (by decide +kernel)
  exact ⟨⟨t, ht, by simpa using hp⟩, ⟨u, hu, by simpa using hq⟩⟩

/-- A command that writes `STATUS`, one that does not, and an illegal word, each answered. -/
theorem test_witness_oneResponse :
    (∃ t, step (offering [.command 0x08000000] base) = .next t) ∧
    (∃ t, step (offering [.command 0x10000001] base) = .next t) ∧ decode 0x10000001#32 = .command (.rdr 1) ∧
    (∃ t, step (offering [.command 0x00000000] base) = .next t) := ⟨⟨_, rfl⟩, ⟨_, rfl⟩, by decide, ⟨_, rfl⟩⟩

theorem test_witness_events :
    (∃ t, step (offering [.command 0x05000000] (analyzedWith true 0 501)) = .next t) ∧
    ∀ rest, (offering [.command 0x05000000] (analyzedWith true 0 501)).env.offered ≠ .reset :: rest := by
  obtain ⟨t, ht, -⟩ := nextHas_next (o := step (offering [.command 0x05000000] (analyzedWith true 0 501)))
    (p := fun _ => true) (by decide +kernel)
  refine ⟨⟨t, ht⟩, fun rest h => ?_⟩
  injection h with h
  cases h

/-- A rejection that leaves the cycle alone, and one that ends it. -/
theorem test_witness_rejection :
    (∃ t, step (offering [.command 0x03000000] (loadedWith zeroFrame)) = .next t ∧
      t.responses = (loadedWith zeroFrame).responses ++ [⟨.badStage, 0⟩]) ∧
    (∃ t, step (offering [.command 0x02000000] (loadedWith (zeroFrame.set 0 0))) = .next t ∧
      t.responses = (loadedWith (zeroFrame.set 0 0)).responses ++ [⟨.invalidHeader, 0⟩]) := by
  obtain ⟨t, ht, hp⟩ := nextHas_next (o := step (offering [.command 0x03000000] (loadedWith zeroFrame)))
    (p := fun t => t.responses == [⟨.badStage, 0⟩]) (by decide +kernel)
  obtain ⟨u, hu, hq⟩ := nextHas_next (o := step (offering [.command 0x02000000] (loadedWith (zeroFrame.set 0 0))))
    (p := fun t => t.responses == [⟨.invalidHeader, 0⟩]) (by decide +kernel)
  exact ⟨⟨t, ht, beq_iff_eq.1 hp⟩, ⟨u, hu, beq_iff_eq.1 hq⟩⟩

theorem test_witness_parameters : ∃ t, step (offering [.reset] presentedZero) = .next t := ⟨_, rfl⟩

/-- A state with something in every space, in canonical form, and a step from it. -/
theorem test_witness_canonical :
    Canonical (offering [.command 0x08000000] presentedZero) ∧
    ∃ t, step (offering [.command 0x08000000] presentedZero) = .next t := by
  have inside : ∀ {w : Nat} {vs : List (BitVec w)} {n : Nat}, vs.length = n → ∀ c ∈ Space.fill vs, c.1 < n :=
    fun h c hc => h ▸ Space.index_fill_lt hc
  refine ⟨⟨⟨Space.wf_fill _, inside zeroFrame_length⟩, ⟨Space.wf_fill _, inside (length_many _ _)⟩,
    ⟨Space.wf_fill _, inside (length_many _ _)⟩, ⟨Space.wf_fill _, inside (length_many _ _)⟩,
    ⟨Space.wf_fill _, fun c hc => ?_⟩⟩, ⟨_, rfl⟩⟩
  exact inside (n := 768) (length_many _ _) c hc

/-- The state after a whole cycle, with answers to come and `END` offered. -/
def presentedAnswered : State :=
  offering [.command 0x08000000] (answering [true] [many 1544 0] [500, 501] presentedZero)

/-- The state after reset with answers to come and `ACQ` offered. -/
def baseAnswered : State := offering [.command 0x01000000] (answering [false] [many 1544 0] [500, 501] base)

/-- ONE state with the invariants and a dutiful environment, after a whole cycle, with clock answers and a read of the
greatest length to come and a word offered; and the same after reset. A step answers from each. -/
theorem test_witness_invariants :
    (Inv presentedAnswered ∧ EnvDuty presentedAnswered ∧ ∃ t, step presentedAnswered = .next t) ∧
    (Inv baseAnswered ∧ EnvDuty baseAnswered ∧ ∃ t, step baseAnswered = .next t) := by
  have duty : ∀ s : State, s.lastTrig = 0 → s.env.clockGiven = [] → s.env.clock = [500, 501] →
      s.env.reads = [many 1544 0] → EnvDuty s := by
    intro s hl hg hc hr
    refine ⟨?_, ?_, ?_⟩
    · rw [hc]
      exact List.Pairwise.cons (fun b hb => by rw [List.mem_singleton.1 hb]; decide) (List.pairwise_singleton _ _)
    · rw [hc, hl, hg]
      intro b hb
      rcases List.mem_cons.1 hb with h | h
      · rw [h]; decide
      · rw [List.mem_singleton.1 h]; decide
    · rw [hr]
      intro bs hbs
      rw [List.mem_singleton.1 hbs, length_many]
  obtain ⟨u, hu, -⟩ := nextHas_next (o := step baseAnswered) (p := fun _ => true) (by decide +kernel)
  exact ⟨⟨presentedZero_inv.of_eq rfl rfl rfl rfl (by decide) (.inl rfl), duty _ rfl rfl rfl rfl, _, rfl⟩,
    base_inv.of_eq rfl rfl rfl rfl (by decide) (.inl rfl), duty _ rfl rfl rfl rfl, u, hu⟩

end Sys2Proof.Tests
end

