-- ==== Sys2Proof/Proofs/Scope.lean ====
section
/-! SUPPORT. Proofs of the statements about the scope (00_scope.md): the open parameters (R6), and the bound on what the
sensor returns (R10). -/

namespace Sys2Proof.Machine

/-! ## No command writes the open parameters -/

@[simp] theorem decodeFrame_cfg (s : State) (frame : List Byte) : (decodeFrame s frame).cfg = s.cfg := rfl
@[simp] theorem analyze_cfg (s : State) (thr : Nat) (grid : List Half) : (analyze s thr grid).cfg = s.cfg := rfl
@[simp] theorem render_cfg (s : State) (tmin span : Nat) (grid : List Half) (hot : Option (Nat × Nat × Half)) :
    (render s tmin span grid hot).cfg = s.cfg := rfl
@[simp] theorem handOver_cfg (s : State) (ov : Overlay) : (handOver s ov).cfg = s.cfg := rfl

@[simp] theorem alert_cfg (s : State) (occ : Bool) (now : Long) : (alert s occ now).cfg = s.cfg := by
  rcases alert_cases s occ now with ⟨-, -, h⟩ | ⟨-, h⟩ <;> simp [h]

/-- Whatever command runs, in whatever stage, the open parameters stay (R6). -/
theorem exec_next_cfg {i : Instr} {s t : State} (h : exec i s = .next t) : t.cfg = s.cfg := by
  cases i with
  | acq => rcases exec_acq_next h with ⟨-, rfl⟩ | ⟨-, -, rfl⟩ | ⟨-, rfl⟩ | ⟨-, -, rfl⟩ <;> simp
  | val => rcases exec_val_next h with ⟨-, rfl⟩ | ⟨-, rfl | rfl⟩ | ⟨-, f, -, -, -, rfl⟩ <;> simp
  | dec => rcases exec_dec_next h with ⟨-, rfl⟩ | ⟨-, f, -, rfl⟩ <;> simp
  | ana thr => rcases exec_ana_next h with ⟨-, rfl⟩ | ⟨-, g, -, rfl⟩ <;> simp
  | alr => rcases exec_alr_next h with ⟨-, rfl⟩ | ⟨-, occ, -, -, -, rfl⟩ <;> simp
  | ren => rcases exec_ren_next h with ⟨-, rfl⟩ | ⟨-, g, a, d, m, -, -, -, -, rfl⟩ <;> simp
  | prs => rcases exec_prs_next h with ⟨-, rfl⟩ | ⟨-, ct, hv, -, -, rfl⟩ <;> simp
  | endCycle => simp [exec_end_next h]
  | rdr n => obtain ⟨c, d, rfl, -⟩ := exec_rdr_next h; simp
  | rdt k => obtain ⟨c, d, rfl, -⟩ := exec_rdt_next h; simp

/-- Settles O54: waiting, reset and an illegal word leave the parameters, and so does every command. -/
theorem parametersFixed : Obligations.ParametersFixed := by
  intro s t h
  rcases step_cases s with ⟨-, hs⟩ | ⟨rest, -, hs⟩ | ⟨w, rest, why, -, -, hs⟩ | ⟨w, rest, i, -, -, hs⟩
  · obtain rfl := Host.Outcome.next.inj (hs.symm.trans h)
    rfl
  · obtain rfl := Host.Outcome.next.inj (hs.symm.trans h)
    exact State.applyReset_cfg _
  · obtain rfl := Host.Outcome.next.inj (hs.symm.trans h)
    exact State.illegalWord_cfg _
  · simpa using exec_next_cfg (hs.symm.trans h)

/-! ## A read beyond the bound -/

/-- The sensor breaks its contract: the next listed read is longer than a frame, and data is pending (R10). -/
theorem readTooLong_iff {s : State} :
    readTooLong s = true ↔ 1544 < (s.env.reads.headD []).length ∧ (sensorPending s).1 = true := by
  simp [readTooLong]

/-- In stage 0, `ACQ` refuses a read that breaks the sensor's contract (U13). -/
theorem exec_acq_of_readTooLong {s : State} (hs : s.stage = .idle) (hlong : readTooLong s = true) :
    exec .acq s = .refused .sensorReadTooLong :=
  (guardStage_pass hs _).trans (if_pos hlong)

/-- Settles O15: a listed read of more than 1544 bytes, with data pending, breaks the sensor's contract. -/
theorem acqRefusesLongRead : Obligations.AcqRefusesLongRead := by
  intro s s1 bs rest hs hpending hreads hlen
  have hlong : readTooLong s = true := readTooLong_iff.2 ⟨by simpa [hreads] using hlen, by rw [hpending]⟩
  exact exec_acq_of_readTooLong hs hlong

end Sys2Proof.Machine
end

/-! SUPPORT. Proofs of the statements about the state (10_state.md): the invariants at command boundaries (R45), the
stage transitions (R23), the response to every command word (R25, R80), the frame buffer after `ACQ` (R28, R52), and the
state after reset (R43). -/

namespace Sys2Proof.Machine

/-! ## What each command leaves in the fields the statements read -/

@[simp] theorem sensorPending_offered (s : State) : (sensorPending s).2.env.offered = s.env.offered := by
  unfold sensorPending; split <;> rfl
@[simp] theorem sensorPending_reads (s : State) : (sensorPending s).2.env.reads = s.env.reads := by
  unfold sensorPending; split <;> rfl
@[simp] theorem sensorPending_clockGiven (s : State) : (sensorPending s).2.env.clockGiven = s.env.clockGiven := by
  unfold sensorPending; split <;> rfl
@[simp] theorem sensorRead_offered (s : State) : (sensorRead s).2.env.offered = s.env.offered := by
  unfold sensorRead; split <;> rfl
@[simp] theorem sensorRead_clockGiven (s : State) : (sensorRead s).2.env.clockGiven = s.env.clockGiven := by
  unfold sensorRead; split <;> rfl
@[simp] theorem clockNow_offered (s : State) : (clockNow s).2.env.offered = s.env.offered := by
  unfold clockNow; split <;> rfl

/-- The answer of `ClockNow()` joins those given before (R45 (f)). -/
@[simp] theorem clockNow_clockGiven (s : State) :
    (clockNow s).2.env.clockGiven = (clockNow s).1 :: s.env.clockGiven := by
  unfold clockNow; split <;> rfl

@[simp] theorem decodeFrame_stage (s : State) (frame : List Byte) : (decodeFrame s frame).stage = .decoded := rfl
@[simp] theorem analyze_stage (s : State) (thr : Nat) (grid : List Half) : (analyze s thr grid).stage = .analyzed := rfl
@[simp] theorem render_stage (s : State) (tmin span : Nat) (grid : List Half) (hot : Option (Nat × Nat × Half)) :
    (render s tmin span grid hot).stage = .rendered := rfl
@[simp] theorem handOver_stage (s : State) (ov : Overlay) : (handOver s ov).stage = .presented := rfl

@[simp] theorem alert_stage (s : State) (occ : Bool) (now : Long) : (alert s occ now).stage = .alerted := by
  rcases alert_cases s occ now with ⟨-, -, h⟩ | ⟨-, h⟩ <;> simp [h]

@[simp] theorem alert_status (s : State) (occ : Bool) (now : Long) : (alert s occ now).status = RespCode.ok.code := by
  rcases alert_cases s occ now with ⟨-, -, h⟩ | ⟨-, h⟩ <;> simp [h]

@[simp] theorem alert_cyc (s : State) (occ : Bool) (now : Long) : (alert s occ now).cyc = s.cyc := by
  rcases alert_cases s occ now with ⟨-, -, h⟩ | ⟨-, h⟩ <;> simp [h]

@[simp] theorem alert_env (s : State) (occ : Bool) (now : Long) : (alert s occ now).env = s.env := by
  rcases alert_cases s occ now with ⟨-, -, h⟩ | ⟨-, h⟩ <;> simp [h]

/-- The pulse ends with the actuator low, and without a pulse the actuator stays low (R45 (a), R152). -/
theorem alert_act {s : State} (h : s.act = false) (occ : Bool) (now : Long) : (alert s occ now).act = false := by
  rcases alert_cases s occ now with ⟨-, -, ha⟩ | ⟨-, ha⟩ <;> simp [ha, h]

/-- `LAST_TRIG` is left, or it takes the sample (R152). -/
theorem alert_lastTrig (s : State) (occ : Bool) (now : Long) :
    (alert s occ now).lastTrig = s.lastTrig ∨ (alert s occ now).lastTrig = now := by
  rcases alert_cases s occ now with ⟨-, -, h⟩ | ⟨-, h⟩ <;> simp [h]

/-- Every response code fits `STATUS` as a value below 8 (R25, T206). -/
theorem RespCode.code_lt (c : RespCode) : c.code.toNat < 8 := by cases c <;> decide

theorem Stage.atLeast_of_eq {a b need : Stage} (h : a = b) (hb : b.atLeast need) : a.atLeast need := h ▸ hb

/-! ## Windows: open on a value, closed on none -/

theorem bufferWindow_fill {w n : Nat} {vs : List (BitVec w)} {on : Prop} (hlen : vs.length = n) (h : on) :
    bufferWindow n (Space.fill vs) on :=
  ⟨fun _ => by rw [Space.contents_fill_of_length hlen]; rfl, fun hoff => absurd h hoff⟩

theorem bufferWindow_nil {w n : Nat} {on : Prop} (h : ¬ on) : bufferWindow n ([] : Space w) on :=
  ⟨fun hon => absurd hon h, fun _ => rfl⟩

theorem regWindow_some {α : Type} {v : α} {on : Prop} (h : on) : regWindow (some v) on := iff_of_true rfl h

theorem regWindow_none {α : Type} {on : Prop} (h : ¬ on) : regWindow (none : Option α) on := iff_of_false nofun h

theorem regWindow_map_isSome {α β : Type} {on : Prop} (h : on) (f : α → β) (o : Option α) :
    regWindow (o.map f) (on ∧ some o.isSome = some true) := by
  simp [regWindow, h]

theorem regWindow.eq_none {α : Type} {r : Option α} {on : Prop} (h : regWindow r on) (hoff : ¬ on) : r = none :=
  Option.not_isSome_iff_eq_none.1 fun hr => hoff (h.1 hr)

/-- The windows of what `DEC` writes. -/
structure GridWindows (c : Cycle) (on : Prop) : Prop where
  tg : bufferWindow 768 c.tg on
  selft : regWindow c.selft on

/-- The windows of what `ANA` writes. -/
structure DetectionWindows (c : Cycle) (on : Prop) : Prop where
  tmin : regWindow c.tmin on
  tmax : regWindow c.tmax on
  hotv : regWindow c.hotv on
  hotx : regWindow c.hotx (on ∧ c.hotv = some true)
  hoty : regWindow c.hoty (on ∧ c.hotv = some true)
  occ : regWindow c.occ on
  span : regWindow c.span on

/-- The windows of what `REN` writes. -/
structure RenderWindows (p : Config.Params) (c : Cycle) (on : Prop) : Prop where
  gray : bufferWindow 768 c.gray on
  color : bufferWindow 768 c.color on
  disp : bufferWindow (p.dispW * p.dispH) c.disp on
  ovCt : regWindow c.ovCt on
  ovHv : regWindow c.ovHv on
  ovHx : regWindow c.ovHx (on ∧ c.ovHv = some true)
  ovHy : regWindow c.ovHy (on ∧ c.ovHv = some true)
  ovHt : regWindow c.ovHt (on ∧ c.ovHv = some true)

/-- The windows of table T20 grouped by the command that opens them. A command from one stage to the next opens one group
and leaves the other four as they are. -/
structure WindowsAt (st : Stage) (p : Config.Params) (c : Cycle) : Prop where
  fb : bufferWindow 1544 c.fb (st.atLeast .loaded)
  dlen : regWindow c.dlen (st.atLeast .valid)
  grid : GridWindows c (st.atLeast .decoded)
  detection : DetectionWindows c (st.atLeast .analyzed)
  render : RenderWindows p c (st.atLeast .rendered)

theorem windows_iff {s : State} : Windows s ↔ WindowsAt s.stage s.cfg s.cyc := by
  constructor
  · intro h
    exact ⟨h.fb, h.dlen, { h with }, { h with }, { h with }⟩
  · rintro ⟨hfb, hdlen, hgrid, hdet, hren⟩
    exact { hgrid, hdet, hren with fb := hfb, dlen := hdlen }

/-- Two stages that open the same windows. -/
theorem WindowsAt.of_stage {a b : Stage} {p : Config.Params} {c : Cycle} (h : WindowsAt a p c)
    (hab : ∀ need ∈ [Stage.loaded, .valid, .decoded, .analyzed, .rendered], a.atLeast need ↔ b.atLeast need) :
    WindowsAt b p c where
  fb := Iff.subst (hab .loaded (by decide)) h.fb
  dlen := Iff.subst (hab .valid (by decide)) h.dlen
  grid := Iff.subst (hab .decoded (by decide)) h.grid
  detection := Iff.subst (hab .analyzed (by decide)) h.detection
  render := Iff.subst (hab .rendered (by decide)) h.render

/-- In stage 0 every window is closed (R24, R44). -/
theorem windowsAt_empty (p : Config.Params) : WindowsAt .idle p Cycle.empty where
  fb := bufferWindow_nil (by decide)
  dlen := regWindow_none (by decide)
  grid := ⟨bufferWindow_nil (by decide), regWindow_none (by decide)⟩
  detection := by constructor <;> exact regWindow_none (by decide)
  render :=
    { gray := bufferWindow_nil (by decide)
      color := bufferWindow_nil (by decide)
      disp := bufferWindow_nil (by decide)
      ovCt := regWindow_none (by decide)
      ovHv := regWindow_none (by decide)
      ovHx := regWindow_none (by decide)
      ovHy := regWindow_none (by decide)
      ovHt := regWindow_none (by decide) }

theorem detectionWindows_storeScan {on : Prop} (h : on) (c : Cycle) (a : Scan) : DetectionWindows (storeScan c a) on where
  tmin := regWindow_some h
  tmax := regWindow_some h
  hotv := regWindow_some h
  hotx := regWindow_map_isSome h _ a.hot
  hoty := regWindow_map_isSome h _ a.hot
  occ := regWindow_some h
  span := regWindow_some h

theorem length_upscale (p : Config.Params) (color : List Colour) : (upscale p color).length = p.dispW * p.dispH := by
  simp [upscale, List.length_flatMap, Nat.mul_comm]

theorem renderWindows_storeRender {on : Prop} (h : on) (c : Cycle) (p : Config.Params) {gray : List Byte}
    (hlen : gray.length = 768) (center : Half) (hot : Option (Nat × Nat × Half)) :
    RenderWindows p (storeRender c p gray (overlayOf p center hot)) on where
  gray := bufferWindow_fill hlen h
  color := bufferWindow_fill (by rw [colorOf, List.length_map, hlen]) h
  disp := bufferWindow_fill (length_upscale p _) h
  ovCt := regWindow_some h
  ovHv := regWindow_some h
  ovHx := regWindow_map_isSome h _ hot
  ovHy := regWindow_map_isSome h _ hot
  ovHt := regWindow_map_isSome h _ hot

/-! ## The ranges a scan leaves (R139) -/

theorem minUpdate_eq_min (tmin v : Nat) : minUpdate tmin v = min tmin v := by
  rw [minUpdate, Config.minLimit_eq]
  split <;> omega

@[simp] theorem scanPixel_tmin (thr : Nat) (a : Scan) (i v : Nat) : (scanPixel thr a i v).tmin = min a.tmin v := by
  unfold scanPixel; split <;> exact minUpdate_eq_min _ _

/-- One pixel is enough to order the two: it lowers the minimum to its value, and raises the maximum to it, clamped. -/
theorem scanPixel_ordered {a : Scan} (h : a.tmin ≤ 30000) (thr i v : Nat) :
    (scanPixel thr a i v).tmin ≤ (scanPixel thr a i v).tmax := by
  rw [scanPixel_tmin, scanPixel]
  split
  · show min a.tmin v ≤ min v 30000
    omega
  · show min a.tmin v ≤ a.tmax
    omega

/-- The bounds of the accumulators that hold from the scan-initial values on. -/
structure ScanBounds (a : Scan) : Prop where
  tmin : a.tmin ≤ 30000
  tmax : a.tmax ≤ 30000
  row : ∀ h, a.hot = some h → h.2 < 24

theorem scanInit_bounds : ScanBounds scanInit := ⟨le_rfl, Nat.zero_le _, nofun⟩

theorem pixelCoord_row_lt {i : Nat} (h : i < 768) : (pixelCoord i).2 < 24 := by
  show i / 32 < 24
  omega

theorem scanPixel_bounds {a : Scan} (h : ScanBounds a) {i : Nat} (hi : i < 768) (thr v : Nat) :
    ScanBounds (scanPixel thr a i v) where
  tmin := by rw [scanPixel_tmin]; exact (min_le_left _ _).trans h.tmin
  tmax := by
    unfold scanPixel
    split
    · exact min_le_right _ _
    · exact h.tmax
  row := by
    unfold scanPixel
    split
    · rintro _ ⟨⟩; exact pixelCoord_row_lt hi
    · exact h.row

theorem scanFrom_bounds {thr i : Nat} {vs : List Half} {a : Scan} (h : ScanBounds a) (hi : i + vs.length ≤ 768) :
    ScanBounds (scanFrom thr i vs a) := by
  induction vs generalizing i a with
  | nil => exact h
  | cons v vs ih =>
    rw [List.length_cons] at hi
    exact ih (scanPixel_bounds h (by omega) thr v.toNat) (by omega)

theorem scanFrom_tmin_le {thr i : Nat} {vs : List Half} {a : Scan} :
    (scanFrom thr i vs a).tmin ≤ a.tmin ∧ ∀ v ∈ vs, (scanFrom thr i vs a).tmin ≤ v.toNat := by
  induction vs generalizing i a with
  | nil => exact ⟨le_rfl, nofun⟩
  | cons v vs ih =>
    obtain ⟨hle, hvs⟩ := ih (i := i + 1) (a := scanPixel thr a i v.toNat)
    rw [scanPixel_tmin, le_min_iff] at hle
    exact ⟨hle.1, List.forall_mem_cons.2 ⟨hle.2, hvs⟩⟩

theorem scanFrom_ordered {thr i : Nat} {vs : List Half} {a : Scan} (h : a.tmin ≤ 30000) (ho : a.tmin ≤ a.tmax) :
    (scanFrom thr i vs a).tmin ≤ (scanFrom thr i vs a).tmax := by
  induction vs generalizing i a with
  | nil => exact ho
  | cons v vs ih =>
    exact ih (by rw [scanPixel_tmin]; exact (min_le_left _ _).trans h) (scanPixel_ordered h thr i v.toNat)

theorem scanGrid_bounds {thr : Nat} {grid : List Half} (h : grid.length = 768) : ScanBounds (scanGrid thr grid) :=
  scanFrom_bounds scanInit_bounds (by omega)

theorem scanGrid_tmin_le {thr : Nat} {grid : List Half} {v : Half} (h : v ∈ grid) :
    (scanGrid thr grid).tmin ≤ v.toNat := scanFrom_tmin_le.2 v h

/-- The scan of a whole grid: the minimum is not above the maximum. The scan-initial values are not so ordered. -/
theorem scanGrid_ordered {thr : Nat} {grid : List Half} (h : grid.length = 768) :
    (scanGrid thr grid).tmin ≤ (scanGrid thr grid).tmax := by
  match grid, h with
  | v :: vs, _ =>
    have hb : ScanBounds (scanPixel thr scanInit 0 v.toNat) := scanPixel_bounds scanInit_bounds (by omega) _ _
    exact scanFrom_ordered (i := 1) (a := scanPixel thr scanInit 0 v.toNat) hb.tmin
      (scanPixel_ordered scanInit_bounds.tmin _ _ _)

theorem spanOf_range {a : Scan} (hb : ScanBounds a) (ho : a.tmin ≤ a.tmax) : 1 ≤ spanOf a ∧ spanOf a ≤ 30000 := by
  have := hb.tmax
  unfold spanOf
  split
  · exact ⟨by decide, by decide⟩
  · omega

/-- `ANA` leaves the detection registers in the ranges of R139. -/
theorem detectionRange_analyze {s : State} {thr : Nat} {grid : List Half}
    (hgrid : Space.contents 768 s.cyc.tg = some grid) : DetectionRange (analyze s thr grid) := by
  obtain ⟨htg, hlen⟩ := Space.contents_eq_some hgrid
  have hb : ScanBounds (scanGrid thr grid) := scanGrid_bounds hlen
  have ho := scanGrid_ordered (thr := thr) hlen
  have hspan := spanOf_range hb ho
  have small : ∀ {n : Nat}, n ≤ 30000 → (BitVec.ofNat 16 n).toNat = n := fun hn => by
    rw [BitVec.toNat_ofNat]; omega
  refine ⟨?ordered, ?ceiling, ?span, ?row, ?least⟩
  case ordered =>
    rintro a b ⟨⟩ ⟨⟩
    rwa [small hb.tmin, small hb.tmax]
  case ceiling =>
    rintro b ⟨⟩
    rw [small hb.tmax]
    exact hb.tmax
  case span =>
    rintro d ⟨⟩
    rwa [small hspan.2]
  case row =>
    intro y hy
    obtain ⟨h, hhot, rfl⟩ := Option.map_eq_some_iff.1 hy
    have hrow := hb.row h hhot
    rw [BitVec.toNat_ofNat]
    exact (Nat.mod_le _ _).trans_lt hrow
  case least =>
    rintro a i t ⟨⟩ hread
    change Space.read s.cyc.tg i = some t at hread
    rw [htg, Space.read_fill] at hread
    rw [small hb.tmin]
    exact scanGrid_tmin_le (List.mem_of_getElem? hread)

/-! ## Each command keeps the invariants (R45) -/

theorem Inv.windowsAt {s : State} (h : Inv s) {st : Stage} (hs : s.stage = st) : WindowsAt st s.cfg s.cyc :=
  hs ▸ windows_iff.1 h.windows

theorem WindowsAt.windows {st : Stage} {s : State} (h : WindowsAt st s.cfg s.cyc) (hs : s.stage = st) : Windows s :=
  windows_iff.2 (hs ▸ h)

/-- With the cycle-local state empty, what is left of the invariants is about `ACT`, `STATUS` and `LAST_TRIG`. -/
theorem inv_of_idle {s : State} (stage : s.stage = .idle) (cyc : s.cyc = Cycle.empty) (actLow : s.act = false)
    (status : s.status.toNat < 8) (lastTrig : s.lastTrig = 0 ∨ s.lastTrig ∈ s.env.clockGiven) : Inv s where
  actLow := actLow
  status := status
  windows := WindowsAt.windows (cyc ▸ windowsAt_empty s.cfg) stage
  detection := by constructor <;> rw [cyc] <;> exact nofun
  frame := fun h => absurd (stage ▸ h) (by decide)
  grid := fun h => absurd (stage ▸ h) (by decide)
  lastTrig := lastTrig

theorem Inv.afterOffer {s : State} (h : Inv s) (rest : List Offer) :
    Inv { s with env := { s.env with offered := rest } } := h.of_eq rfl rfl rfl h.actLow h.status h.lastTrig

theorem inv_applyReset (s : State) : Inv s.applyReset := inv_of_idle rfl rfl rfl RespCode.ok.code_lt (.inl rfl)

theorem Inv.afterCleanup {s : State} (h : Inv s) (c : RespCode) (d : Long) :
    Inv (State.respond { s.cleanup with stage := .idle } c d) := inv_of_idle rfl rfl h.actLow c.code_lt h.lastTrig

theorem Inv.afterReject {s : State} (h : Inv s) (c : RespCode) : Inv (s.reject c) :=
  h.of_eq rfl rfl rfl h.actLow c.code_lt h.lastTrig

theorem Inv.afterAnswer {s : State} (h : Inv s) (c : RespCode) (d : Long) : Inv (s.answer c d) :=
  h.of_eq rfl rfl rfl h.actLow h.status h.lastTrig

theorem Inv.afterSensorPending {s : State} (h : Inv s) : Inv (sensorPending s).2 :=
  h.of_eq (by simp) (by simp) (by simp) (by simp [h.actLow]) (by simp [h.status]) (by simpa using h.lastTrig)

theorem Inv.afterSensorRead {s : State} (h : Inv s) : Inv (sensorRead s).2 :=
  h.of_eq (by simp) (by simp) (by simp) (by simp [h.actLow]) (by simp [h.status]) (by simpa using h.lastTrig)

/-- `ACQ` opens the window of `FB`. -/
theorem Inv.afterLoad {s : State} (h : Inv s) (hs : s.stage = .idle) {bs : List Byte} (hlen : bs.length = 1544) :
    Inv (State.respond { s with stage := .loaded, cyc := { s.cyc with fb := Space.fill bs } } .ok 0) where
  actLow := h.actLow
  status := RespCode.ok.code_lt
  windows :=
    have hw := h.windowsAt hs
    WindowsAt.windows (st := .loaded) (hs := rfl)
      { fb := bufferWindow_fill hlen (by decide)
        dlen := Iff.subst (by decide) hw.dlen
        grid := Iff.subst (by decide) { hw.grid with }
        detection := Iff.subst (by decide) { hw.detection with }
        render := Iff.subst (by decide) { hw.render with } }
  detection := { h.detection with }
  frame := fun hge => absurd (show Stage.loaded.atLeast .valid from hge) (by decide)
  grid := fun hge => absurd (show Stage.loaded.atLeast .decoded from hge) (by decide)
  lastTrig := h.lastTrig

/-- `VAL` opens the window of `DLEN`, on a frame it accepts (R45 (d)). -/
theorem Inv.afterAccept {s : State} (h : Inv s) (hs : s.stage = .loaded) {frame : List Byte}
    (hfb : Space.contents 1544 s.cyc.fb = some frame) (hheader : headerOk s.cfg.sentinel frame = true)
    (hsum : checksum frame = trailingWord frame) :
    Inv (State.respond { s with stage := .valid, cyc := { s.cyc with dlen := some (declaredLength frame) } } .ok 0) where
  actLow := h.actLow
  status := RespCode.ok.code_lt
  windows :=
    have hw := h.windowsAt hs
    WindowsAt.windows (st := .valid) (hs := rfl)
      { fb := Iff.subst (by decide) hw.fb
        dlen := regWindow_some (by decide)
        grid := Iff.subst (by decide) { hw.grid with }
        detection := Iff.subst (by decide) { hw.detection with }
        render := Iff.subst (by decide) { hw.render with } }
  detection := { h.detection with }
  frame := fun _ f hf => by
    obtain rfl := Option.some.inj (hfb.symm.trans hf)
    exact ⟨hheader, hsum, rfl⟩
  grid := fun hge => absurd (show Stage.valid.atLeast .decoded from hge) (by decide)
  lastTrig := h.lastTrig

/-- `DEC` opens the windows of `TG` and `SELFT`. It writes the grid while `TMIN` holds no value, so no range is broken. -/
theorem Inv.afterDecode {s : State} (h : Inv s) (hs : s.stage = .valid) {frame : List Byte}
    (hfb : Space.contents 1544 s.cyc.fb = some frame) : Inv (decodeFrame s frame) where
  actLow := h.actLow
  status := RespCode.ok.code_lt
  windows :=
    have hw := h.windowsAt hs
    WindowsAt.windows (st := .decoded) (hs := rfl)
      { fb := Iff.subst (by decide) hw.fb
        dlen := Iff.subst (by decide) hw.dlen
        grid := ⟨bufferWindow_fill (length_samples (Space.contents_eq_some hfb).2) (by decide), regWindow_some (by decide)⟩
        detection := Iff.subst (by decide) { hw.detection with }
        render := Iff.subst (by decide) { hw.render with } }
  detection :=
    have hclosed : s.cyc.tmin = none := (h.windowsAt hs).detection.tmin.eq_none (by decide)
    { h.detection with least := fun _ _ _ ha => nomatch hclosed.symm.trans ha }
  frame := fun _ => h.frame (Stage.atLeast_of_eq hs (by decide))
  grid := fun _ f hf => by
    obtain rfl := Option.some.inj (hfb.symm.trans hf)
    exact ⟨rfl, rfl⟩
  lastTrig := h.lastTrig

/-- `ANA` opens the windows of the detection registers, on values in the ranges of R139. -/
theorem Inv.afterAnalyze {s : State} (h : Inv s) (hs : s.stage = .decoded) {grid : List Half}
    (htg : Space.contents 768 s.cyc.tg = some grid) (thr : Nat) : Inv (analyze s thr grid) where
  actLow := h.actLow
  status := RespCode.ok.code_lt
  windows :=
    have hw := h.windowsAt hs
    WindowsAt.windows (st := .analyzed) (hs := rfl)
      { fb := Iff.subst (by decide) hw.fb
        dlen := Iff.subst (by decide) hw.dlen
        grid := Iff.subst (by decide) { hw.grid with }
        detection := detectionWindows_storeScan (by decide) _ _
        render := Iff.subst (by decide) { hw.render with } }
  detection := detectionRange_analyze htg
  frame := fun _ => h.frame (Stage.atLeast_of_eq hs (by decide))
  grid := fun _ => h.grid (Stage.atLeast_of_eq hs (by decide))
  lastTrig := h.lastTrig

/-- `ALR` opens no window, leaves the actuator low, and stores a time stamp the clock gave. -/
theorem Inv.afterAlert {s : State} (h : Inv s) (hs : s.stage = .analyzed) (occ : Bool) :
    Inv (alert (clockNow s).2 occ (clockNow s).1) where
  actLow := alert_act (by simp [h.actLow]) _ _
  status := by rw [alert_status]; exact RespCode.ok.code_lt
  windows := by
    refine WindowsAt.windows (st := .alerted) ?_ (alert_stage _ _ _)
    simpa using (h.windowsAt hs).of_stage (b := .alerted) (by decide)
  detection := h.detection.of_eq (by simp)
  frame := fun _ => by simpa using h.frame (Stage.atLeast_of_eq hs (by decide))
  grid := fun _ => by simpa using h.grid (Stage.atLeast_of_eq hs (by decide))
  lastTrig := by
    rcases alert_lastTrig (clockNow s).2 occ (clockNow s).1 with hkept | htaken
    · rw [hkept, clockNow_lastTrig, alert_env, clockNow_clockGiven]
      exact h.lastTrig.imp_right (List.mem_cons_of_mem _)
    · rw [htaken, alert_env, clockNow_clockGiven]
      exact .inr List.mem_cons_self

/-- `REN` opens the windows of the render buffers and the overlay registers. -/
theorem Inv.afterRender {s : State} (h : Inv s) (hs : s.stage = .alerted) {grid : List Half}
    (htg : Space.contents 768 s.cyc.tg = some grid) (tmin span : Nat) (hot : Option (Nat × Nat × Half)) :
    Inv (render s tmin span grid hot) where
  actLow := h.actLow
  status := RespCode.ok.code_lt
  windows :=
    have hw := h.windowsAt hs
    have hgray : (grayOf tmin span grid).length = 768 := by
      rw [grayOf, List.length_map, (Space.contents_eq_some htg).2]
    WindowsAt.windows (st := .rendered) (hs := rfl)
      { fb := Iff.subst (by decide) hw.fb
        dlen := Iff.subst (by decide) hw.dlen
        grid := Iff.subst (by decide) { hw.grid with }
        detection := Iff.subst (by decide) { hw.detection with }
        render := renderWindows_storeRender (by decide) _ _ hgray _ _ }
  detection := { h.detection with }
  frame := fun _ => h.frame (Stage.atLeast_of_eq hs (by decide))
  grid := fun _ => h.grid (Stage.atLeast_of_eq hs (by decide))
  lastTrig := h.lastTrig

/-- `PRS` opens no window. -/
theorem Inv.afterHandOver {s : State} (h : Inv s) (hs : s.stage = .rendered) (ov : Overlay) : Inv (handOver s ov) where
  actLow := h.actLow
  status := RespCode.ok.code_lt
  windows := WindowsAt.windows (st := .presented) (hs := rfl) ((h.windowsAt hs).of_stage (by decide))
  detection := { h.detection with }
  frame := fun _ => h.frame (Stage.atLeast_of_eq hs (by decide))
  grid := fun _ => h.grid (Stage.atLeast_of_eq hs (by decide))
  lastTrig := h.lastTrig

/-- Whatever command runs, in whatever stage, the invariants stay (R45). -/
theorem exec_next_inv {i : Instr} {s t : State} (hinv : Inv s) (h : exec i s = .next t) : Inv t := by
  cases i with
  | acq =>
    rcases exec_acq_next h with ⟨-, rfl⟩ | ⟨-, -, rfl⟩ | ⟨-, rfl⟩ | ⟨hs, hlen, rfl⟩
    · exact hinv.afterReject _
    · exact hinv.afterSensorPending.afterReject _
    · exact hinv.afterSensorPending.afterSensorRead.afterReject _
    · simpa using hinv.afterSensorPending.afterSensorRead.afterLoad (by simpa using hs) hlen
  | val =>
    rcases exec_val_next h with ⟨-, rfl⟩ | ⟨-, rfl | rfl⟩ | ⟨hs, f, hfb, hheader, hsum, rfl⟩
    · exact hinv.afterReject _
    · exact hinv.afterCleanup _ _
    · exact hinv.afterCleanup _ _
    · exact hinv.afterAccept hs hfb hheader hsum
  | dec =>
    rcases exec_dec_next h with ⟨-, rfl⟩ | ⟨hs, f, hfb, rfl⟩
    · exact hinv.afterReject _
    · exact hinv.afterDecode hs hfb
  | ana thr =>
    rcases exec_ana_next h with ⟨-, rfl⟩ | ⟨hs, g, htg, rfl⟩
    · exact hinv.afterReject _
    · exact hinv.afterAnalyze hs htg _
  | alr =>
    rcases exec_alr_next h with ⟨-, rfl⟩ | ⟨hs, occ, -, -, -, rfl⟩
    · exact hinv.afterReject _
    · exact hinv.afterAlert hs occ
  | ren =>
    rcases exec_ren_next h with ⟨-, rfl⟩ | ⟨hs, g, a, d, m, htg, -, -, -, rfl⟩
    · exact hinv.afterReject _
    · exact hinv.afterRender hs htg _ _ m
  | prs =>
    rcases exec_prs_next h with ⟨-, rfl⟩ | ⟨hs, ct, hv, -, -, rfl⟩
    · exact hinv.afterReject _
    · exact hinv.afterHandOver hs _
  | endCycle => obtain rfl := exec_end_next h; exact hinv.afterCleanup _ _
  | rdr n => obtain ⟨c, d, rfl, -⟩ := exec_rdr_next h; exact hinv.afterAnswer c d
  | rdt k => obtain ⟨c, d, rfl, -⟩ := exec_rdt_next h; exact hinv.afterAnswer c d

/-- Settles O56: waiting and an illegal word leave what the invariants depend on, reset empties the cycle, and every
command keeps them. -/
theorem invariantsKept : Obligations.InvariantsKept := by
  intro s t hinv h
  rcases step_cases s with ⟨-, hs⟩ | ⟨rest, -, hs⟩ | ⟨w, rest, why, -, -, hs⟩ | ⟨w, rest, i, -, -, hs⟩
  · obtain rfl := Host.Outcome.next.inj (hs.symm.trans h)
    exact hinv
  · obtain rfl := Host.Outcome.next.inj (hs.symm.trans h)
    exact inv_applyReset _
  · obtain rfl := Host.Outcome.next.inj (hs.symm.trans h)
    exact (hinv.afterOffer rest).afterReject _
  · exact exec_next_inv (hinv.afterOffer rest) (hs.symm.trans h)

/-! ## The stages (R23) -/

/-- The rows of table T23: the command, the stage before and the stage after. -/
def StageRow (i : Instr) (a b : Stage) : Prop :=
  (i = .acq ∧ a = .idle ∧ b = .loaded) ∨
  (i = .val ∧ a = .loaded ∧ (b = .valid ∨ b = .idle)) ∨
  (i = .dec ∧ a = .valid ∧ b = .decoded) ∨
  ((∃ thr, i = .ana thr) ∧ a = .decoded ∧ b = .analyzed) ∨
  (i = .alr ∧ a = .analyzed ∧ b = .alerted) ∨
  (i = .ren ∧ a = .alerted ∧ b = .rendered) ∨
  (i = .prs ∧ a = .rendered ∧ b = .presented) ∨
  (i = .endCycle ∧ b = .idle)

/-- A command leaves the stage, or it takes a row of table T23. -/
theorem exec_next_stage {i : Instr} {s t : State} (h : exec i s = .next t) :
    t.stage = s.stage ∨ StageRow i s.stage t.stage := by
  cases i with
  | acq =>
    rcases exec_acq_next h with ⟨-, rfl⟩ | ⟨-, -, rfl⟩ | ⟨-, rfl⟩ | ⟨hs, -, rfl⟩
    · left; simp
    · left; simp
    · left; simp
    · right; simp [StageRow, hs]
  | val =>
    rcases exec_val_next h with ⟨-, rfl⟩ | ⟨hs, rfl | rfl⟩ | ⟨hs, f, -, -, -, rfl⟩
    · left; simp
    · right; simp [StageRow, hs]
    · right; simp [StageRow, hs]
    · right; simp [StageRow, hs]
  | dec =>
    rcases exec_dec_next h with ⟨-, rfl⟩ | ⟨hs, f, -, rfl⟩
    · left; simp
    · right; simp [StageRow, hs]
  | ana thr =>
    rcases exec_ana_next h with ⟨-, rfl⟩ | ⟨hs, g, -, rfl⟩
    · left; simp
    · right; simp [StageRow, hs]
  | alr =>
    rcases exec_alr_next h with ⟨-, rfl⟩ | ⟨hs, occ, -, -, -, rfl⟩
    · left; simp
    · right; simp [StageRow, hs]
  | ren =>
    rcases exec_ren_next h with ⟨-, rfl⟩ | ⟨hs, g, a, d, m, -, -, -, -, rfl⟩
    · left; simp
    · right; simp [StageRow, hs]
  | prs =>
    rcases exec_prs_next h with ⟨-, rfl⟩ | ⟨hs, ct, hv, -, -, rfl⟩
    · left; simp
    · right; simp [StageRow, hs]
  | endCycle => right; simp [exec_end_next h, StageRow]
  | rdr n => left; obtain ⟨c, d, rfl, -⟩ := exec_rdr_next h; simp
  | rdt k => left; obtain ⟨c, d, rfl, -⟩ := exec_rdt_next h; simp

/-- Settles O50: waiting and an illegal word leave the stage, and a command that changes it takes a row of table T23. -/
theorem stageTransitions : Obligations.StageTransitions := by
  intro s t h hne
  rcases step_cases s with ⟨-, hs⟩ | ⟨rest, ho, hs⟩ | ⟨w, rest, why, -, -, hs⟩ | ⟨w, rest, i, ho, hd, hs⟩
  · obtain rfl := Host.Outcome.next.inj (hs.symm.trans h)
    exact absurd rfl hne
  · obtain rfl := Host.Outcome.next.inj (hs.symm.trans h)
    exact .inl ⟨rest, ho, rfl⟩
  · obtain rfl := Host.Outcome.next.inj (hs.symm.trans h)
    exact absurd rfl hne
  · exact .inr ⟨w, rest, i, ho, hd, (exec_next_stage (hs.symm.trans h)).resolve_left hne⟩

/-! ## One response for every command word (R25, R80) -/

/-- From `s` to `t` one response is given, no offer is taken, and `STATUS` is the code of that response. -/
def Responded (s t : State) : Prop :=
  ∃ r : Response, t.responses = s.responses ++ [r] ∧ t.env.offered = s.env.offered ∧ t.status = r.code.code

/-- The response of a state that has given no response since `s`. -/
theorem responded_respond {s u : State} (c : RespCode) (d : Long) (hr : u.responses = s.responses)
    (ho : u.env.offered = s.env.offered) : Responded s (u.respond c d) :=
  ⟨⟨c, d⟩, by simp [hr], by simp [ho], rfl⟩

theorem responded_alert {s u : State} (hr : u.responses = s.responses) (ho : u.env.offered = s.env.offered)
    (occ : Bool) (now : Long) : Responded s (alert u occ now) := by
  rcases alert_cases u occ now with ⟨-, -, h⟩ | ⟨-, h⟩
  · rw [h]; exact responded_respond _ _ hr ho
  · rw [h]; exact responded_respond _ _ hr ho

/-- The access commands, which leave `STATUS` (R25). -/
def IsAccess (i : Instr) : Prop := (∃ n, i = .rdr n) ∨ ∃ k, i = .rdt k

theorem exec_next_of_access {i : Instr} {s t : State} (hi : IsAccess i) (h : exec i s = .next t) :
    ∃ c d, t = s.answer c d := by
  rcases hi with ⟨n, rfl⟩ | ⟨k, rfl⟩
  · obtain ⟨c, d, ht, -⟩ := exec_rdr_next h; exact ⟨c, d, ht⟩
  · obtain ⟨c, d, ht, -⟩ := exec_rdt_next h; exact ⟨c, d, ht⟩

theorem exec_next_responded {i : Instr} {s t : State} (hi : ¬ IsAccess i) (h : exec i s = .next t) :
    Responded s t := by
  cases i with
  | acq =>
    rcases exec_acq_next h with ⟨-, rfl⟩ | ⟨-, -, rfl⟩ | ⟨-, rfl⟩ | ⟨-, -, rfl⟩ <;>
      exact responded_respond _ _ (by simp) (by simp)
  | val =>
    rcases exec_val_next h with ⟨-, rfl⟩ | ⟨-, rfl | rfl⟩ | ⟨-, f, -, -, -, rfl⟩ <;> exact responded_respond _ _ rfl rfl
  | dec => rcases exec_dec_next h with ⟨-, rfl⟩ | ⟨-, f, -, rfl⟩ <;> exact responded_respond _ _ rfl rfl
  | ana thr => rcases exec_ana_next h with ⟨-, rfl⟩ | ⟨-, g, -, rfl⟩ <;> exact responded_respond _ _ rfl rfl
  | alr =>
    rcases exec_alr_next h with ⟨-, rfl⟩ | ⟨-, occ, -, -, -, rfl⟩
    · exact responded_respond _ _ rfl rfl
    · exact responded_alert (by simp) (by simp) _ _
  | ren => rcases exec_ren_next h with ⟨-, rfl⟩ | ⟨-, g, a, d, m, -, -, -, -, rfl⟩ <;> exact responded_respond _ _ rfl rfl
  | prs => rcases exec_prs_next h with ⟨-, rfl⟩ | ⟨-, ct, hv, -, -, rfl⟩ <;> exact responded_respond _ _ rfl rfl
  | endCycle => obtain rfl := exec_end_next h; exact responded_respond _ _ rfl rfl
  | rdr n => exact absurd (.inl ⟨n, rfl⟩) hi
  | rdt k => exact absurd (.inr ⟨k, rfl⟩) hi

/-- The words that leave `STATUS` are those that decode to an access command. -/
theorem isAccess_iff_of_decode {w : Word} {i : Instr} (hd : decode w = .command i) :
    IsAccess i ↔ (∃ n, decode w = .command (.rdr n)) ∨ ∃ k, decode w = .command (.rdt k) := by
  simp [IsAccess, hd]

/-- Settles O51: an illegal word is answered with its code, an access command leaves `STATUS`, and every other command
writes it. -/
theorem oneResponsePerCommand : Obligations.OneResponsePerCommand := by
  intro s t w rest ho h
  rcases step_cases s with ⟨ho', -⟩ | ⟨rest', ho', -⟩ | ⟨w', rest', why, ho', hd, hs⟩ | ⟨w', rest', i, ho', hd, hs⟩
  · cases ho.symm.trans ho'
  · cases ho.symm.trans ho'
  · cases ho.symm.trans ho'
    obtain rfl := Host.Outcome.next.inj (hs.symm.trans h)
    exact ⟨⟨.illegalCommand, 0⟩, rfl, rfl, by simp [hd], fun _ => rfl⟩
  · cases ho.symm.trans ho'
    rw [← isAccess_iff_of_decode hd]
    by_cases hi : IsAccess i
    · obtain ⟨c, d, rfl⟩ := exec_next_of_access hi (hs.symm.trans h)
      exact ⟨⟨c, d⟩, rfl, rfl, fun _ => rfl, absurd hi⟩
    · obtain ⟨r, hr, hrest, hstatus⟩ := exec_next_responded hi (hs.symm.trans h)
      exact ⟨r, hr, hrest, fun hi' => absurd hi' hi, fun _ => hstatus⟩

/-! ## The frame buffer after `ACQ` (R28, R50, R52) -/

/-- A read of at most a frame is within the sensor's contract, listed or free. -/
theorem readTooLong_eq_false {s : State} (h : (sensorRead (sensorPending s).2).1.length ≤ 1544) :
    readTooLong s = false := by
  rw [Bool.eq_false_iff, Ne, readTooLong_iff]
  rintro ⟨hlong, -⟩
  rcases sensorRead_env (sensorPending s).2 with ⟨bs, rest, hlisted, hbs, -⟩ | ⟨hnone, -, -⟩
  · rw [sensorPending_reads] at hlisted
    rw [hbs] at h
    rw [hlisted, List.headD_cons] at hlong
    omega
  · rw [sensorPending_reads] at hnone
    simp [hnone] at hlong

/-- In stage 0 and with a whole frame read, `ACQ` stores it in arrival order. -/
theorem exec_acq_of_frame {s : State} (hs : s.stage = .idle) (hp : (sensorPending s).1 = true)
    (hlen : (sensorRead (sensorPending s).2).1.length = 1544) :
    exec .acq s = .next (State.respond { (sensorRead (sensorPending s).2).2 with
      stage := .loaded
      cyc := { s.cyc with fb := Space.fill (sensorRead (sensorPending s).2).1 } } .ok 0) := by
  have hshort : readTooLong s = false := readTooLong_eq_false hlen.le
  have hacq : exec .acq s = .next (acquire s) := (guardStage_pass hs _).trans (if_neg (by simp [hshort]))
  rcases acquire_cases s with ⟨hp', -⟩ | ⟨-, hlt, -⟩ | ⟨-, -, h⟩
  · rw [hp] at hp'; cases hp'
  · omega
  · rw [hacq, h]

theorem memory_wf_fill {bs : List Byte} (h : bs.length = 1544) : Memory.wf (Space.fill bs) :=
  ⟨Space.wf_fill bs, fun _ hc => (Space.index_fill_lt hc).trans_eq h⟩

/-- Settles O14: what `ACQ` stores is the buffer filled with the bytes in arrival order. -/
theorem acqStoresBytesInOrder : Obligations.AcqStoresBytesInOrder := by
  intro s s1 s2 bs hs hpending hread hlen
  obtain ⟨hp, rfl⟩ := Prod.ext_iff.1 hpending
  obtain ⟨rfl, rfl⟩ := Prod.ext_iff.1 hread
  refine ⟨_, exec_acq_of_frame hs hp hlen, Space.read_fill _, memory_wf_fill hlen, ?_⟩
  simp [State.respond, RespCode.code]

/-! ## The state after reset (R43) -/

/-- Settles O11: the reset state field by field. -/
theorem resetValues : Obligations.ResetValues := ⟨rfl, rfl, rfl, rfl, rfl, rfl⟩

theorem canonical_of_empty {s : State} (h : s.cyc = Cycle.empty) : Canonical s := by
  constructor <;> rw [h] <;> exact ⟨List.Pairwise.nil, nofun⟩

/-- With no answer listed the environment owes nothing. -/
theorem envDuty_of_none {s : State} (hclock : s.env.clock = []) (hreads : s.env.reads = []) : EnvDuty s where
  clockSorted := hclock ▸ List.Pairwise.nil
  clockAhead := hclock ▸ nofun
  readBound := hreads ▸ nofun

/-- Settles O58: the cycle-local state is empty and no answer is listed. -/
theorem resetIsGood : Obligations.ResetIsGood :=
  ⟨inv_of_idle rfl rfl rfl (by decide) (.inl rfl), canonical_of_empty rfl, envDuty_of_none rfl rfl⟩

end Sys2Proof.Machine

/-! SUPPORT. Proof of the statement about the output event trace (20_memory.md R65). The statement names command words, so
the decoder's inverse comes first (R82, R84). -/

namespace Sys2Proof

/-! ## The word of a decoded command (R82, R84) -/

theorem decodeZ_eq_command {imm : Half} {i j : Instr} (h : decodeZ imm i = .command j) : imm = 0 ∧ i = j := by
  unfold decodeZ at h
  split at h
  · next himm => cases h; exact ⟨himm, rfl⟩
  · cases h

/-- A row of table T82 is taken only on its own opcode, with its own immediate: 0 in the rows of format Z, the operand in
those of `ANA`, `RDR` and `RDT`. -/
theorem decodeOp_eq_command {op : Nat} {imm : Half} {i : Instr} (h : decodeOp op imm = .command i) :
    op = i.opcode.toNat ∧ imm = i.imm := by
  unfold decodeOp at h
  split at h
  case h_4 | h_9 | h_10 => cases h; exact ⟨rfl, rfl⟩
  case h_11 => cases h
  all_goals
    obtain ⟨rfl, rfl⟩ := decodeZ_eq_command h
    exact ⟨rfl, rfl⟩

theorem fields_of_decode {w : Word} {i : Instr} (h : decode w = .command i) :
    opField w = i.opcode ∧ rsvField w = 0 ∧ immField w = i.imm := by
  unfold decode at h
  split at h
  · cases h
  · next hrsv =>
    obtain ⟨hop, himm⟩ := decodeOp_eq_command h
    exact ⟨BitVec.eq_of_toNat_eq hop, not_not.1 hrsv, himm⟩

/-- The three fields of table T81 are the whole word. -/
theorem opField_append_rsvField_append_immField (w : Word) : opField w ++ rsvField w ++ immField w = w := by
  unfold opField rsvField immField
  rw [BitVec.extractLsb'_append_extractLsb'_eq_extractLsb' (show 24 = 16 + 8 from rfl),
    BitVec.extractLsb'_append_extractLsb'_eq_extractLsb' (show 16 = 0 + 16 from rfl)]
  exact BitVec.extractLsb'_eq_self

/-- A command is decoded from one word only, its own. -/
theorem eq_encode_of_decode {w : Word} {i : Instr} (h : decode w = .command i) : w = encode i := by
  obtain ⟨hop, hrsv, himm⟩ := fields_of_decode h
  rw [← opField_append_rsvField_append_immField w, hop, hrsv, himm]
  rfl

end Sys2Proof

namespace Sys2Proof.Machine

/-! ## The output event trace (R65) -/

@[simp] theorem decodeFrame_events (s : State) (frame : List Byte) : (decodeFrame s frame).events = s.events := rfl
@[simp] theorem analyze_events (s : State) (thr : Nat) (grid : List Half) : (analyze s thr grid).events = s.events := rfl
@[simp] theorem render_events (s : State) (tmin span : Nat) (grid : List Half) (hot : Option (Nat × Nat × Half)) :
    (render s tmin span grid hot).events = s.events := rfl
@[simp] theorem handOver_events (s : State) (ov : Overlay) :
    (handOver s ov).events = s.events ++ [.present s.cyc.disp ov] := rfl
@[simp] theorem handOver_cyc (s : State) (ov : Overlay) : (handOver s ov).cyc = s.cyc := rfl

/-- The whole pulse, or no event (R152). -/
theorem alert_events (s : State) (occ : Bool) (now : Long) :
    (alert s occ now).events = s.events ∨
    (alert s occ now).events = s.events ++ [.actSet true, .hold 100, .actSet false] := by
  rcases alert_cases s occ now with ⟨-, -, h⟩ | ⟨-, h⟩ <;> simp [h]

/-- The commands with output: `ALR` with the whole pulse, `PRS` with the image as it stands. -/
def Emitted (i : Instr) (s t : State) : Prop :=
  (i = .alr ∧ s.stage = .analyzed ∧ t.events = s.events ++ [.actSet true, .hold 100, .actSet false]) ∨
  (i = .prs ∧ s.stage = .rendered ∧
    ∃ ov, t.events = s.events ++ [.present s.cyc.disp ov] ∧ t.cyc.disp = s.cyc.disp)

/-- A command leaves the event trace, or it is one of the two with output. -/
theorem exec_next_events {i : Instr} {s t : State} (h : exec i s = .next t) :
    t.events = s.events ∨ Emitted i s t := by
  cases i with
  | acq => left; rcases exec_acq_next h with ⟨-, rfl⟩ | ⟨-, -, rfl⟩ | ⟨-, rfl⟩ | ⟨-, -, rfl⟩ <;> simp
  | val => left; rcases exec_val_next h with ⟨-, rfl⟩ | ⟨-, rfl | rfl⟩ | ⟨-, f, -, -, -, rfl⟩ <;> simp
  | dec => left; rcases exec_dec_next h with ⟨-, rfl⟩ | ⟨-, f, -, rfl⟩ <;> simp
  | ana thr => left; rcases exec_ana_next h with ⟨-, rfl⟩ | ⟨-, g, -, rfl⟩ <;> simp
  | alr =>
    rcases exec_alr_next h with ⟨-, rfl⟩ | ⟨hs, occ, -, -, -, rfl⟩
    · left; simp
    · rcases alert_events (clockNow s).2 occ (clockNow s).1 with hquiet | hpulse
      · left; simpa using hquiet
      · right; left; exact ⟨rfl, hs, by simpa using hpulse⟩
  | ren => left; rcases exec_ren_next h with ⟨-, rfl⟩ | ⟨-, g, a, d, m, -, -, -, -, rfl⟩ <;> simp
  | prs =>
    rcases exec_prs_next h with ⟨-, rfl⟩ | ⟨hs, ct, hv, -, -, rfl⟩
    · left; simp
    · right; right; exact ⟨rfl, hs, _, handOver_events _ _, by simp⟩
  | endCycle => left; simp [exec_end_next h]
  | rdr n => left; obtain ⟨c, d, rfl, -⟩ := exec_rdr_next h; simp
  | rdt k => left; obtain ⟨c, d, rfl, -⟩ := exec_rdt_next h; simp

/-- Settles O52: waiting and an illegal word leave the trace; a command that extends it is `ALR` or `PRS`, and the word
offered is that command's own. -/
theorem outputEventsOnlyFromAlrAndPrs : Obligations.OutputEventsOnlyFromAlrAndPrs := by
  intro s t h hnoReset
  rcases step_cases s with ⟨-, hs⟩ | ⟨rest, ho, -⟩ | ⟨w, rest, why, -, -, hs⟩ | ⟨w, rest, i, ho, hd, hs⟩
  · obtain rfl := Host.Outcome.next.inj (hs.symm.trans h)
    exact .inl rfl
  · exact absurd ho (hnoReset rest)
  · obtain rfl := Host.Outcome.next.inj (hs.symm.trans h)
    exact .inl (State.illegalWord_events _)
  · obtain rfl := eq_encode_of_decode hd
    rcases exec_next_events (hs.symm.trans h) with hquiet | ⟨rfl, hstage, hpulse⟩ | ⟨rfl, hstage, ov, hpresent, hdisp⟩
    · exact .inl hquiet
    · exact .inr (.inl ⟨rest, ho, hstage, hpulse⟩)
    · exact .inr (.inr ⟨rest, ov, ho, hstage, hpresent, hdisp⟩)

end Sys2Proof.Machine

/-! SUPPORT. Proofs of the statements about the encoding (30_encoding.md): the decoder against the encoder (R81 to R85) and
against the pseudocode (R84), sample words and the pseudo-command `CYCLE` (R87, R88), and the step on an offered word
(R80). -/

namespace Sys2Proof

/-! ## The word of every command (R81, R82) -/

theorem immField_append (op rsv : Byte) (imm : Half) : immField (op ++ rsv ++ imm) = imm := by
  unfold immField
  rw [BitVec.extractLsb'_append_eq_of_add_le (by decide), BitVec.extractLsb'_eq_self]

theorem opField_encode (i : Instr) : opField (encode i) = i.opcode := (Laws.TableRow.fields i.opcode i.imm).1

theorem rsvField_encode (i : Instr) : rsvField (encode i) = 0 := (Laws.TableRow.fields i.opcode i.imm).2

theorem immField_encode (i : Instr) : immField (encode i) = i.imm := immField_append i.opcode 0 i.imm

theorem decode_of_rsvField_ne {w : Word} (h : rsvField w ≠ 0) : decode w = .illegal .reservedNotZero := if_pos h

theorem decode_of_rsvField_eq {w : Word} (h : rsvField w = 0) :
    decode w = decodeOp (opField w).toNat (immField w) := if_neg (not_not.2 h)

/-- The opcode map takes every command's opcode, with its immediate, to that command (T82). -/
theorem decodeOp_opcode_imm (i : Instr) : decodeOp i.opcode.toNat i.imm = .command i := by
  cases i <;> rfl

theorem decode_encode (i : Instr) : decode (encode i) = .command i := by
  rw [decode_of_rsvField_eq (rsvField_encode i), opField_encode, immField_encode, decodeOp_opcode_imm]

/-- Settles O1: the three fields of a command's word are its opcode, 0 and its immediate, and the opcode map inverts them. -/
theorem decodeOfEncode : Obligations.DecodeOfEncode := fun i _ => decode_encode i

/-- Settles O2: the decoded fields are the command's own, and the three fields are the whole word. -/
theorem encodeOfDecode : Obligations.EncodeOfDecode := fun _ _ h => (eq_encode_of_decode h).symm

/-- Settles O6: the six command words are those of their commands; the others fail in the opcode, in the immediate of a
format Z opcode, and in the reserved field. -/
theorem sampleWordsDecode : Obligations.SampleWordsDecode :=
  ⟨decode_encode .acq, decode_encode (.ana 3000), decode_encode (.rdr 7), decode_encode (.rdt 400),
    decode_encode (.ana 65535), decode_encode .endCycle, decode_of_rsvField_eq (by decide),
    decode_of_rsvField_eq (by decide), decode_of_rsvField_ne (by decide)⟩

/-! ## The fields as numbers (T81) -/

theorem toNat_opField (w : Word) : (opField w).toNat = w.toNat / 16777216 := by
  simp only [opField, BitVec.extractLsb'_toNat, Nat.shiftRight_eq_div_pow]
  omega

theorem toNat_rsvField (w : Word) : (rsvField w).toNat = w.toNat / 65536 % 256 := by
  simp [rsvField, Nat.shiftRight_eq_div_pow]

theorem rsvField_eq_zero_iff {w : Word} : rsvField w = 0 ↔ w.toNat / 65536 % 256 = 0 := by
  rw [← toNat_rsvField]
  exact BitVec.toNat_inj.symm

theorem immField_eq_ofNat (w : Word) : immField w = BitVec.ofNat 16 (w.toNat % 65536) :=
  BitVec.eq_of_toNat_eq (by simp [immField])

theorem immField_eq_zero_iff {w : Word} : immField w = 0 ↔ w.toNat % 65536 = 0 := by
  rw [← BitVec.toNat_inj]
  simp [immField]

theorem toNat_encode (i : Instr) : (encode i).toNat = i.opcode.toNat * 16777216 + i.imm.toNat := by
  have hop := toNat_opField (encode i)
  have hrsv := toNat_rsvField (encode i)
  have himm := congrArg BitVec.toNat (immField_eq_ofNat (encode i))
  rw [opField_encode] at hop
  rw [rsvField_encode] at hrsv
  rw [immField_encode, BitVec.toNat_ofNat] at himm
  simp only [BitVec.ofNat_eq_ofNat, BitVec.toNat_zero] at hrsv
  omega

/-! ## The pseudo-command `CYCLE` (R88) -/

theorem encode_ana_ofNat {thr : Nat} (h : thr < 65536) :
    encode (.ana (BitVec.ofNat 16 thr)) = BitVec.ofNat 32 (0x04000000 + thr) := by
  apply BitVec.eq_of_toNat_eq
  rw [toNat_encode, BitVec.toNat_ofNat]
  have hop : (Instr.ana (BitVec.ofNat 16 thr)).opcode.toNat = 4 := rfl
  have himm : (Instr.ana (BitVec.ofNat 16 thr)).imm.toNat = thr := (BitVec.toNat_ofNat thr 16).trans (Nat.mod_eq_of_lt h)
  omega

/-- Settles O7: the line is well formed, and `ANA thr` is the one word with an operand. -/
theorem cycleExpansion : Obligations.CycleExpansion := by
  intro thr hthr
  have hwf : (AsmLine.cycle thr).wellFormed = true := decide_eq_true hthr
  calc (AsmLine.cycle thr).assemble
      = some ((AsmLine.cycle thr).expand.map encode) := if_pos hwf
    _ = _ := by rw [← encode_ana_ofNat hthr]; rfl

/-! ## The opcodes of format Z, and those outside table T82 (R84) -/

/-- The opcodes of format Z with their commands (T82). -/
def formatZ : List (Nat × Instr) :=
  [(0x01, .acq), (0x02, .val), (0x03, .dec), (0x05, .alr), (0x06, .ren), (0x07, .prs), (0x08, .endCycle)]

theorem decodeOp_of_mem_formatZ {p : Nat × Instr} (h : p ∈ formatZ) (imm : Half) :
    decodeOp p.1 imm = decodeZ imm p.2 := by
  simp only [formatZ, List.mem_cons, List.not_mem_nil, or_false] at h
  rcases h with rfl | rfl | rfl | rfl | rfl | rfl | rfl <;> rfl

theorem decodeOp_of_not_mem {op : Nat} (h : op ∉ [0x01, 0x02, 0x03, 0x04, 0x05, 0x06, 0x07, 0x08, 0x10, 0x11])
    (imm : Half) : decodeOp op imm = .illegal .unknownOp := by
  unfold decodeOp
  split
  case h_11 => rfl
  all_goals exact absurd (by decide) h

end Sys2Proof

namespace Sys2Proof.Machine

/-! ## Numbers out of range (R192, R194) -/

theorem exec_rdr_of_badIndex {n : Half} (h : 17 < n.toNat) (s : State) :
    exec (.rdr n) s = .next (s.answer .badIndex 0) := by
  have hreg : regOfImm n = none := List.getElem?_eq_none h
  change execRdr n s = _
  rw [execRdr, hreg]

theorem exec_rdt_of_badIndex {i : Half} (h : 767 < i.toNat) (s : State) :
    exec (.rdt i) s = .next (s.answer .badIndex 0) := by
  have hpixel : pixelOfImm i = none := if_neg (Nat.not_lt.2 h)
  change execRdt i s = _
  rw [execRdt, hpixel]

/-- Settles O3: the fields as numbers, then the opcode map row by row; a number out of range names no register and no
pixel. -/
theorem decodeFollowsPseudocode : Obligations.DecodeFollowsPseudocode := by
  intro w
  refine ⟨fun hrsv => ⟨_, decode_of_rsvField_ne (mt rsvField_eq_zero_iff.1 hrsv)⟩, fun hrsv => ?_,
    fun s n hn => exec_rdr_of_badIndex hn s, fun s i hi => exec_rdt_of_badIndex hi s⟩
  rw [decode_of_rsvField_eq (rsvField_eq_zero_iff.2 hrsv), toNat_opField, ← immField_eq_ofNat]
  refine ⟨fun p hp hop => ?formatZ, fun hop => ?ana, fun hop => ?rdr, fun hop => ?rdt,
    fun hop => ⟨_, decodeOp_of_not_mem hop _⟩⟩
  case formatZ =>
    rw [hop, decodeOp_of_mem_formatZ hp]
    exact ⟨fun himm => if_pos (immField_eq_zero_iff.2 himm),
      fun himm => ⟨_, if_neg (mt immField_eq_zero_iff.1 himm)⟩⟩
  case ana | rdr | rdt => rw [hop]; rfl

/-! ## The step on an offered word (R80) -/

theorem step_of_command {s : State} {w : Word} {rest : List Offer} {i : Instr}
    (ho : s.env.offered = .command w :: rest) (hd : decode w = .command i) :
    step s = exec i { s with env := { s.env with offered := rest } } := by
  rcases step_cases s with ⟨ho', -⟩ | ⟨rest', ho', -⟩ | ⟨w', rest', why, ho', hd', -⟩ | ⟨w', rest', j, ho', hd', hs⟩
  · cases ho.symm.trans ho'
  · cases ho.symm.trans ho'
  · cases ho.symm.trans ho'
    cases hd.symm.trans hd'
  · cases ho.symm.trans ho'
    cases hd.symm.trans hd'
    exact hs

/-- Settles O8: of all a step can be, the offer leaves the decoded command alone. -/
theorem stepRunsOfferedCommand : Obligations.StepRunsOfferedCommand := fun _ _ _ _ ho hd _ => step_of_command ho hd

end Sys2Proof.Machine

/-! SUPPORT. Proofs of the statements about `ACQ` and `VAL` (40_frame_acquire_validate.md): every outcome of the two
commands (R101, R105), and what the checksum sees of a changed frame (R109, R110). -/

namespace Sys2Proof.Machine

/-! ## A response or a rejection as a record of the fields it writes (R14, R218) -/

theorem State.reject_eq (s : State) (c : RespCode) :
    s.reject c = { s with status := c.code, responses := s.responses ++ [⟨c, 0⟩] } := rfl

theorem State.respond_eq (s : State) (c : RespCode) (d : Long) :
    s.respond c d = { s with status := c.code, responses := s.responses ++ [⟨c, d⟩] } := rfl

theorem State.rejectCycle_eq (s : State) (c : RespCode) :
    s.rejectCycle c = { s with
      stage := .idle, cyc := Cycle.empty, status := c.code, responses := s.responses ++ [⟨c, 0⟩] } := rfl

/-! ## `VAL` on the bytes of the frame (R105, R108) -/

theorem exec_val_of_frame {s : State} {frame : List Byte} (hs : s.stage = .loaded)
    (hfb : Space.contents 1544 s.cyc.fb = some frame) : exec .val s = .next (validate s frame) :=
  (guardStage_pass hs _).trans (by rw [hfb])

theorem validate_of_badHeader {s : State} {frame : List Byte} (h : headerOk s.cfg.sentinel frame ≠ true) :
    validate s frame = s.rejectCycle .invalidHeader := if_neg h

theorem validate_of_badSum {s : State} {frame : List Byte} (hheader : headerOk s.cfg.sentinel frame = true)
    (hsum : checksum frame ≠ trailingWord frame) : validate s frame = s.rejectCycle .checksumMismatch :=
  (if_pos hheader).trans (if_neg hsum)

theorem validate_of_accepted {s : State} {frame : List Byte} (hheader : headerOk s.cfg.sentinel frame = true)
    (hsum : checksum frame = trailingWord frame) :
    validate s frame =
      State.respond { s with stage := .valid, cyc := { s.cyc with dlen := some (declaredLength frame) } } .ok 0 :=
  (if_pos hheader).trans (if_pos hsum)

/-- The check of R107 as a congruence of numbers. -/
theorem checksum_eq_trailingWord_iff {frame : List Byte} (h : frame.length = 1544) :
    checksum frame = trailingWord frame ↔
      (∑ k ∈ Finset.range 771, (le16At frame (2 * k)).toNat) % 65536 = (le16At frame 1542).toNat := by
  rw [← BitVec.toNat_inj, checksum_toNat h, trailingWord_eq h]

/-- Settles O16: the stage guard, then the header check, then the sum. -/
theorem valOutcomes : Obligations.ValOutcomes := by
  refine ⟨rfl, fun s => ⟨fun hs => guardStage_block hs _, fun frame hs hfb => ?_⟩⟩
  have hlen : frame.length = 1544 := (Space.contents_eq_some hfb).2
  have hheader := headerOk_iff hlen s.cfg.sentinel
  have hsum := checksum_eq_trailingWord_iff hlen
  rw [exec_val_of_frame hs hfb]
  refine ⟨fun hbad => ?_, fun h0 h1 hne => ?_, fun h0 h1 heq => ?_⟩
  · rw [validate_of_badHeader (mt hheader.1 (not_and_or.2 hbad))]
    rfl
  · rw [validate_of_badSum (hheader.2 ⟨h0, h1⟩) (mt hsum.1 hne)]
    rfl
  · rw [validate_of_accepted (hheader.2 ⟨h0, h1⟩) (hsum.2 heq), declaredLength_eq hlen]
    rfl

/-! ## The sum as a sum in the 16-bit words (R107) -/

theorem checksum_eq_sum {frame : List Byte} (h : frame.length = 1544) :
    checksum frame = ∑ k ∈ Finset.range 771, le16At frame (2 * k) := by
  rw [checksum, summed_eq h, ← List.sum_eq_foldl]
  rfl

/-- Two frames' sums differ by the sum of the differences of their words. -/
theorem checksum_sub_checksum {f g : List Byte} (hf : f.length = 1544) (hg : g.length = 1544) :
    checksum g - checksum f = ∑ k ∈ Finset.range 771, (le16At g (2 * k) - le16At f (2 * k)) := by
  rw [checksum_eq_sum hf, checksum_eq_sum hg, Finset.sum_sub_distrib]

/-- Settles O18: of the differences of the words only `d` and `-d` are left, and they cancel. -/
theorem cancellingChangesUnseen : Obligations.CancellingChangesUnseen := by
  intro f g a b d hf hg ha hb hab hga hgb hother
  refine sub_eq_zero.1 ?_
  calc checksum g - checksum f
      = ∑ k ∈ Finset.range 771, (le16At g (2 * k) - le16At f (2 * k)) := checksum_sub_checksum hf hg
    _ = (le16At g (2 * a) - le16At f (2 * a)) + (le16At g (2 * b) - le16At f (2 * b)) :=
        Finset.sum_eq_add_of_mem a b (Finset.mem_range.2 ha) (Finset.mem_range.2 hb) hab fun k hk hne =>
          sub_eq_zero.2 (hother k (Finset.mem_range.1 hk) hne.1 hne.2)
    _ = 0 := by rw [hga, hgb]; ring

/-! ## One changed byte (R109) -/

/-- A frame that passes the check fails it once exactly one of its words, summed or trailing, is another. -/
theorem checksum_ne_trailingWord_of_one_word {f g : List Byte} {m : Nat} (hf : f.length = 1544) (hg : g.length = 1544)
    (hm : m < 772) (hsum : checksum f = trailingWord f) (hne : le16At g (2 * m) ≠ le16At f (2 * m))
    (hother : ∀ k, k ≠ m → le16At g (2 * k) = le16At f (2 * k)) : checksum g ≠ trailingWord g := by
  intro hsum'
  have hdiff := checksum_sub_checksum hf hg
  rw [hsum, hsum', trailingWord_eq hf, trailingWord_eq hg] at hdiff
  apply hne
  by_cases hlast : m = 771
  · subst hlast
    rw [Finset.sum_eq_zero fun k hk => sub_eq_zero.2 (hother k (Finset.mem_range.1 hk).ne)] at hdiff
    exact sub_eq_zero.1 hdiff
  · rw [Finset.sum_eq_single_of_mem m (Finset.mem_range.2 (by omega)) fun k _ hk => sub_eq_zero.2 (hother k hk),
      hother 771 (Ne.symm hlast), sub_self] at hdiff
    exact sub_eq_zero.1 hdiff.symm

theorem le16_inj {lo hi lo' hi' : Byte} : le16 lo hi = le16 lo' hi' ↔ lo = lo' ∧ hi = hi' := by
  refine ⟨fun h => ?_, fun ⟨hlo, hhi⟩ => by rw [hlo, hhi]⟩
  have h := congrArg BitVec.toNat h
  rw [le16_toNat, le16_toNat] at h
  constructor <;> bv_omega

theorem getD_set_same {f : List Byte} {k : Nat} (h : k < f.length) (v : Byte) : (f.set k v).getD k 0 = v := by
  simp [List.getD_eq_getElem?_getD, h]

theorem getD_set_ne {f : List Byte} {k i : Nat} (h : i ≠ k) (v : Byte) : (f.set k v).getD i 0 = f.getD i 0 := by
  rw [List.getD_eq_getElem?_getD, List.getElem?_set_ne h.symm, List.getD_eq_getElem?_getD]

/-- A byte belongs to one word only. -/
theorem le16At_set_of_other_word {f : List Byte} {k m : Nat} (h : m ≠ k / 2) (v : Byte) :
    le16At (f.set k v) (2 * m) = le16At f (2 * m) := by
  rw [le16At, getD_set_ne (by omega), getD_set_ne (by omega), le16At]

/-- Another value of a byte is another value of the word it belongs to. -/
theorem le16At_set_ne {f : List Byte} {k : Nat} {v : Byte} (hk : k < f.length) (hv : v ≠ f.getD k 0) :
    le16At (f.set k v) (2 * (k / 2)) ≠ le16At f (2 * (k / 2)) := by
  intro h
  obtain ⟨hlo, hhi⟩ := le16_inj.1 h
  rcases Nat.mod_two_eq_zero_or_one k with hpar | hpar
  · rw [show 2 * (k / 2) = k by omega, getD_set_same hk] at hlo
    exact hv hlo
  · rw [show 2 * (k / 2) + 1 = k by omega, getD_set_same hk] at hhi
    exact hv hhi

/-- The header check sees every other value of a header byte. -/
theorem headerOk_set_of_lt {sentinel : Byte} {f : List Byte} {k : Nat} {v : Byte} (hf : f.length = 1544)
    (hheader : headerOk sentinel f = true) (hk : k < 2) (hv : v ≠ f.getD k 0) :
    headerOk sentinel (f.set k v) ≠ true := by
  obtain ⟨h0, h1⟩ := (headerOk_iff hf sentinel).1 hheader
  rw [Ne, headerOk_iff (by rw [List.length_set, hf])]
  rintro ⟨h0', h1'⟩
  obtain rfl | rfl : k = 0 ∨ k = 1 := by omega
  · rw [getD_set_same (by omega)] at h0'
    exact hv (h0'.trans h0.symm)
  · rw [getD_set_same (by omega)] at h1'
    exact hv (h1'.trans h1.symm)

/-- The header check sees no byte behind the header. -/
theorem headerOk_set_of_ge {sentinel : Byte} {f : List Byte} {k : Nat} (hf : f.length = 1544)
    (hheader : headerOk sentinel f = true) (hk : 2 ≤ k) (v : Byte) : headerOk sentinel (f.set k v) = true := by
  rw [headerOk_iff (by rw [List.length_set, hf]), getD_set_ne (by omega), getD_set_ne (by omega)]
  exact (headerOk_iff hf sentinel).1 hheader

/-- `VAL` rejects an accepted frame with one byte changed, whatever the byte's new value. -/
theorem validate_set_of_accepted {s : State} {f : List Byte} {k : Nat} {v : Byte} (hf : f.length = 1544)
    (hheader : headerOk s.cfg.sentinel f = true) (hsum : checksum f = trailingWord f) (hk : k < 1544)
    (hv : v ≠ f.getD k 0) :
    validate s (f.set k v) = s.rejectCycle (if k < 2 then .invalidHeader else .checksumMismatch) := by
  by_cases h2 : k < 2
  · rw [if_pos h2, validate_of_badHeader (headerOk_set_of_lt hf hheader h2 hv)]
  · have hbad : checksum (f.set k v) ≠ trailingWord (f.set k v) :=
      checksum_ne_trailingWord_of_one_word hf (by rw [List.length_set, hf]) (by omega) hsum
        (le16At_set_ne (by omega) hv) fun m hm => le16At_set_of_other_word hm v
    rw [if_neg h2, validate_of_badSum (headerOk_set_of_ge hf hheader (by omega) v) hbad]

theorem xor_twoPow_ne {j : Nat} (hj : j < 8) (b : Byte) : b ^^^ BitVec.twoPow 8 j ≠ b := by
  intro h
  have hbit := congrArg (fun x : Byte => x.getLsbD j) h
  simp [hj] at hbit

/-- Settles O17: a flipped bit is another value of its byte, and `VAL` rejects every such frame. -/
theorem singleBitFlipDetected : Obligations.SingleBitFlipDetected := by
  intro s frame k j hs hlen hheader hsum hk hj s' hs'
  have hstage : s'.stage = .loaded := by rw [hs', hs]
  have hheader' : headerOk s'.cfg.sentinel frame = true := by rw [hs', hheader]
  have hfb : Space.contents 1544 s'.cyc.fb = some (frame.set k (frame.getD k 0 ^^^ BitVec.twoPow 8 j)) := by
    rw [hs', Space.contents_fill_of_length (by rw [List.length_set, hlen])]
  rw [exec_val_of_frame hstage hfb, validate_set_of_accepted hlen hheader' hsum hk (xor_twoPow_ne hj _),
    State.rejectCycle_eq, hs']
  split <;> rfl

/-! ## The trailing word behind any 1542 bytes (R110) -/

theorem halves_append {bs : List Byte} (h : bs.length % 2 = 0) (tail : List Byte) :
    halves (bs ++ tail) = halves bs ++ halves tail := by
  induction bs using halves.induct with
  | case1 lo hi rest ih => simp [ih (by simp at h; omega)]
  | case2 bs hne =>
    match bs, hne, h with
    | [], _, _ => rfl
    | lo :: hi :: rest, hne, _ => exact absurd rfl (hne lo hi rest)

/-- The sum is one of the body's bytes alone. -/
theorem checksum_append {body : List Byte} (h : body.length = 1542) (tail : List Byte) :
    checksum (body ++ tail) = (halves body).foldl (· + ·) 0 := by
  rw [checksum, halves_append (by omega), List.take_left' (by rw [length_halves, h])]

theorem trailingWord_append {body : List Byte} (h : body.length = 1542) (lo hi : Byte) :
    trailingWord (body ++ [lo, hi]) = le16 lo hi := by
  have hlen : (halves body).length = 771 := by rw [length_halves, h]
  rw [trailingWord, halves_append (by omega), List.getD_append_right _ _ _ _ hlen.le, hlen]
  rfl

/-- A word stored low byte first reads back as itself (R8). -/
theorem le16_bytes (q : Half) : le16 (q.setWidth 8) ((q >>> 8).setWidth 8) = q := by
  apply BitVec.eq_of_toNat_eq
  rw [le16_toNat]
  simp [Nat.shiftRight_eq_div_pow]
  omega

/-- Settles O19: the sum does not read the trailing word, which is the word itself, so the sum is the one that passes. -/
theorem trailingWordUnique : Obligations.TrailingWordUnique := by
  intro body hbody
  simp only [checksum_append hbody, trailingWord_append hbody, le16_bytes]
  exact existsUnique_eq'

/-! ## `ACQ` (R101) -/

/-- In stage 0 and within the sensor's contract, `ACQ` is what it does with the environment's answers. -/
theorem exec_acq_of_idle {s : State} (hs : s.stage = .idle) (h : readTooLong s = false) :
    exec .acq s = .next (acquire s) := (guardStage_pass hs _).trans (if_neg (by simp [h]))

theorem exec_acq_of_noData {s : State} (hs : s.stage = .idle) (hp : (sensorPending s).1 = false) :
    exec .acq s = .next ((sensorPending s).2.reject .noData) := by
  have hshort : readTooLong s = false := by simp [readTooLong, hp]
  rw [exec_acq_of_idle hs hshort]
  rcases acquire_cases s with ⟨-, h⟩ | ⟨hp', -, -⟩ | ⟨hp', -, -⟩
  · rw [h]
  all_goals cases hp.symm.trans hp'

theorem exec_acq_of_shortRead {s : State} (hs : s.stage = .idle) (hp : (sensorPending s).1 = true)
    (hlen : (sensorRead (sensorPending s).2).1.length < 1544) :
    exec .acq s = .next ((sensorRead (sensorPending s).2).2.reject .incompleteFrame) := by
  rw [exec_acq_of_idle hs (readTooLong_eq_false hlen.le)]
  rcases acquire_cases s with ⟨hp', -⟩ | ⟨-, -, h⟩ | ⟨-, hge, -⟩
  · cases hp.symm.trans hp'
  · rw [h]
  · omega

/-- Settles O13: the stage guard, then the answer of `SensorPending()`, then the length of the read. -/
theorem acqOutcomes : Obligations.AcqOutcomes := by
  refine ⟨rfl, fun s => ⟨fun hs => guardStage_block hs _, fun p s1 hs hpending => ?_⟩⟩
  obtain ⟨rfl, rfl⟩ := Prod.ext_iff.1 hpending
  refine ⟨fun hp => ?noData, fun bs s2 hp hread => ?read⟩
  case noData => rw [exec_acq_of_noData hs hp, State.reject_eq, sensorPending_responses]; rfl
  case read =>
    obtain ⟨rfl, rfl⟩ := Prod.ext_iff.1 hread
    refine ⟨fun hlt => ?short, fun hlen => ?whole⟩
    case short =>
      rw [exec_acq_of_shortRead hs hp hlt, State.reject_eq, sensorRead_responses, sensorPending_responses]
      rfl
    case whole =>
      rw [exec_acq_of_frame hs hp hlen, State.respond_eq, sensorRead_responses, sensorPending_responses]
      rfl

end Sys2Proof.Machine

/-! SUPPORT. Proofs of the statements about `DEC` (41_decode.md): its outcome (R121), the self-temperature as the checksum
(R122), and the round trip of a frame built from words (R123). -/

namespace Sys2Proof.Machine

/-! ## `DEC` on the bytes of the frame (R121) -/

theorem exec_dec_of_frame {s : State} {frame : List Byte} (hs : s.stage = .valid)
    (hfb : Space.contents 1544 s.cyc.fb = some frame) : exec .dec s = .next (decodeFrame s frame) :=
  (guardStage_pass hs _).trans (by rw [hfb])

theorem samples_eq_map_le16At {frame : List Byte} (h : frame.length = 1544) :
    samples frame = (List.range 768).map fun i => le16At frame (4 + 2 * i) := by
  apply List.ext_getElem?
  intro i
  by_cases hi : i < 768
  · rw [samples_getElem? h hi, List.getElem?_map, List.getElem?_range hi]
    rfl
  · rw [List.getElem?_eq_none (by rw [length_samples h]; omega), List.getElem?_eq_none (by simpa using hi)]

/-- Settles O20: the stage guard, then the samples and the trailing word at their offsets. -/
theorem decOutcome : Obligations.DecOutcome := by
  refine ⟨rfl, fun s => ⟨fun hs => guardStage_block hs _, fun frame hs hfb => ?_⟩⟩
  have hlen : frame.length = 1544 := (Space.contents_eq_some hfb).2
  rw [exec_dec_of_frame hs hfb, decodeFrame, samples_eq_map_le16At hlen, trailingWord_eq hlen]
  rfl

/-! ## The trailing word is both checksum and self-temperature (R58, R122) -/

/-- Where `VAL` ends in stage 2 it has accepted the frame, and `DEC` finds the frame it accepted. -/
theorem accepted_of_exec_val {s t : State} {frame : List Byte} (hs : s.stage = .loaded)
    (hfb : Space.contents 1544 s.cyc.fb = some frame) (hval : exec .val s = .next t) (ht : t.stage = .valid) :
    checksum frame = trailingWord frame ∧ Space.contents 1544 t.cyc.fb = some frame := by
  rcases exec_val_next hval with ⟨hs', -⟩ | ⟨-, rfl | rfl⟩ | ⟨-, f, hf, -, hsum, rfl⟩
  · exact absurd hs hs'
  · cases ht
  · cases ht
  · obtain rfl := Option.some.inj (hf.symm.trans hfb)
    exact ⟨hsum, hf⟩

/-- Settles O21: `DEC` copies the trailing word, which is the sum in a frame that `VAL` accepts. -/
theorem selfTemperatureIsChecksum : Obligations.SelfTemperatureIsChecksum := by
  intro s t frame hs hfb hval ht
  obtain ⟨hsum, hfb'⟩ := accepted_of_exec_val hs hfb hval ht
  refine ⟨_, exec_dec_of_frame ht hfb', trailingWord frame, rfl, ?_⟩
  rw [← hsum, checksum_toNat (Space.contents_eq_some hfb).2]

/-! ## A frame built from words (R59, R60) -/

/-- The bytes of a row of words, each low byte first (R8, R59). -/
def bytesOfWords (ws : List Half) : List Byte := ws.flatMap fun v : Half => [v.setWidth 8, (v >>> 8).setWidth 8]

theorem bytesOfWords_cons (v : Half) (ws : List Half) :
    bytesOfWords (v :: ws) = v.setWidth 8 :: (v >>> 8).setWidth 8 :: bytesOfWords ws := rfl

/-- Reading the bytes as words gives back the words (R60). -/
@[simp] theorem halves_bytesOfWords (ws : List Half) : halves (bytesOfWords ws) = ws := by
  induction ws with
  | nil => rfl
  | cons v ws ih => rw [bytesOfWords_cons, halves_cons, le16_bytes, ih]

@[simp] theorem length_bytesOfWords (ws : List Half) : (bytesOfWords ws).length = 2 * ws.length := by
  induction ws with
  | nil => rfl
  | cons v ws ih => rw [bytesOfWords_cons, List.length_cons, List.length_cons, List.length_cons, ih]; omega

/-- A first word of two sentinel bytes passes the header check (R106). -/
theorem headerOk_bytesOfWords (sentinel : Byte) (ws : List Half) :
    headerOk sentinel (bytesOfWords ((sentinel ++ sentinel : Half) :: ws)) = true := by
  obtain ⟨hlo, hhi⟩ := le16_inj.1 (le16_bytes (sentinel ++ sentinel : Half) : _ = le16 sentinel sentinel)
  rw [bytesOfWords_cons, hlo, hhi]
  simp [headerOk]

/-- The frame of R53: two sentinel bytes, the declared length, the pixels, the spare word and the trailing word. -/
def builtFrame (sentinel : Byte) (len : Half) (px : List Half) (rsvd ck : Half) : List Byte :=
  bytesOfWords (((sentinel ++ sentinel : Half) :: len :: px) ++ [rsvd, ck])

section
variable (sentinel : Byte) (len rsvd ck : Half) {px : List Half}

theorem headerOk_builtFrame : headerOk sentinel (builtFrame sentinel len px rsvd ck) = true :=
  headerOk_bytesOfWords sentinel _

theorem declaredLength_builtFrame : declaredLength (builtFrame sentinel len px rsvd ck) = len := by
  simp [declaredLength, builtFrame]

theorem length_builtFrame (h : px.length = 768) : (builtFrame sentinel len px rsvd ck).length = 1544 := by
  simp [builtFrame, h]

theorem samples_builtFrame (h : px.length = 768) : samples (builtFrame sentinel len px rsvd ck) = px := by
  rw [samples, builtFrame, halves_bytesOfWords]
  exact List.take_left' h

theorem trailingWord_builtFrame (h : px.length = 768) : trailingWord (builtFrame sentinel len px rsvd ck) = ck := by
  simp [trailingWord, builtFrame, Config.numSummed_eq, h]

/-- All words but the last are summed, in any order (R107). -/
theorem checksum_builtFrame (h : px.length = 768) :
    checksum (builtFrame sentinel len px rsvd ck) =
      (sentinel ++ sentinel : Half) + len + px.foldl (· + ·) 0 + rsvd := by
  have hsummed (header : Half) :
      ((header :: len :: px) ++ [rsvd, ck]).take 771 = (header :: len :: px) ++ [rsvd] := by
    simp [List.take_append, h]
  rw [checksum, builtFrame, halves_bytesOfWords, Config.numSummed_eq, hsummed, ← List.sum_eq_foldl,
    ← List.sum_eq_foldl, List.sum_append, List.sum_cons, List.sum_cons, List.sum_singleton]
  ring

end

/-- Settles O22: `VAL` accepts the built frame, and `DEC` reads the words it is built from. -/
theorem decodeRoundTrip : Obligations.DecodeRoundTrip := by
  intro s len rsvd ck px hpx hs hck hfb
  have hframe : Space.contents 1544 s.cyc.fb = some (builtFrame s.cfg.sentinel len px rsvd ck) := by
    rw [hfb]
    exact Space.contents_fill_of_length (length_builtFrame s.cfg.sentinel len rsvd ck hpx)
  have hsum : checksum (builtFrame s.cfg.sentinel len px rsvd ck) =
      trailingWord (builtFrame s.cfg.sentinel len px rsvd ck) := by
    rw [checksum_builtFrame _ _ _ _ hpx, trailingWord_builtFrame _ _ _ _ hpx, ← hck]
  have hval := exec_val_of_frame hs hframe
  rw [validate_of_accepted (headerOk_builtFrame _ _ _ _) hsum] at hval
  refine ⟨_, _, hval, exec_dec_of_frame rfl hframe, rfl, rfl, ?dlen, fun i => ?grid, ?selft⟩
  case dlen => exact congrArg some (declaredLength_builtFrame _ _ _ _)
  case grid => exact (Space.read_fill _ i).trans (by rw [samples_builtFrame _ _ _ _ hpx])
  case selft => exact congrArg some (trailingWord_builtFrame _ _ _ _ hpx)

end Sys2Proof.Machine

/-! SUPPORT. Proofs of the statements about `ANA` (42_statistics.md): one pixel of the scan (R133 to R135, R138, R140), the
extremes and the flags a whole scan leaves (R139, R141, R143), the pixel it records (R142), and the registers `ANA` writes
from them (R131, R136, R145). -/

namespace Sys2Proof.Machine

/-! ## One pixel of the scan (R133 to R135, R138) -/

section
variable {thr i v : Nat} {a : Scan}

theorem scanPixel_of_lt (h : a.tmax < v) :
    scanPixel thr a i v =
      { tmin := min a.tmin v
        tmax := min v 30000
        hot := some (i % 32, i / 32)
        occ := a.occ || decide (thr < min v 30000) } := by
  rw [← minUpdate_eq_min]
  exact if_pos h

theorem scanPixel_of_le (h : v ≤ a.tmax) : scanPixel thr a i v = { a with tmin := min a.tmin v } := by
  rw [← minUpdate_eq_min]
  exact if_neg (Nat.not_lt.2 h)

/-- A clamped maximum takes the larger of itself and the clamped sample. -/
theorem scanPixel_tmax (h : a.tmax ≤ 30000) : (scanPixel thr a i v).tmax = max a.tmax (min v 30000) := by
  rcases lt_or_ge a.tmax v with hlt | hle
  · rw [scanPixel_of_lt hlt]
    exact (max_eq_right (le_min hlt.le h)).symm
  · rw [scanPixel_of_le hle]
    exact (max_eq_left (min_le_of_left_le hle)).symm

theorem scanPixel_occ_of_occ (h : a.occ = true) : (scanPixel thr a i v).occ = true := by
  rcases lt_or_ge a.tmax v with hlt | hle
  · simp [scanPixel_of_lt hlt, h]
  · rw [scanPixel_of_le hle]
    exact h

end

/-- Settles O30: the minimum is written in both branches of the maximum test, the other three in one of them. -/
theorem scanPixelRule : Obligations.ScanPixelRule := by
  refine fun thr a i v => ⟨?minimum, fun hle => ?noNewMaximum, fun hlt => ?newMaximum⟩
  case minimum => exact (scanPixel_tmin thr a i v).trans (minUpdate_eq_min a.tmin v).symm
  case noNewMaximum =>
    rw [scanPixel_of_le hle]
    exact ⟨rfl, rfl, rfl⟩
  case newMaximum =>
    rw [scanPixel_of_lt hlt]
    exact ⟨rfl, rfl, by simp⟩

/-! ## The maximum tells the flags (R141, R143) -/

/-- The maximum is clamped, and the two flags are comparisons with it: a hottest pixel is recorded when it is above 0, and
occupancy is set when it is above the threshold. -/
structure FlagsOfMax (thr : Nat) (a : Scan) : Prop where
  ceiling : a.tmax ≤ 30000
  hot : hotvOf a.hot = true ↔ 0 < a.tmax
  occ : a.occ = true ↔ thr < a.tmax

theorem flagsOfMax_scanInit (thr : Nat) : FlagsOfMax thr scanInit :=
  ⟨by decide, by decide, iff_of_false nofun (Nat.not_lt_zero thr)⟩

theorem FlagsOfMax.scanPixel {thr : Nat} {a : Scan} (h : FlagsOfMax thr a) (i v : Nat) :
    FlagsOfMax thr (scanPixel thr a i v) := by
  rcases lt_or_ge a.tmax v with hlt | hle
  · have hnew : a.tmax ≤ min v 30000 := le_min hlt.le h.ceiling
    rw [scanPixel_of_lt hlt]
    refine ⟨min_le_right _ _, iff_of_true rfl (show 0 < min v 30000 by omega), ?_⟩
    rw [Bool.or_eq_true, decide_eq_true_iff, h.occ]
    exact or_iff_right_of_imp fun hthr => hthr.trans_le hnew
  · rw [scanPixel_of_le hle]
    exact ⟨h.ceiling, h.hot, h.occ⟩

theorem FlagsOfMax.scanFrom {thr i : Nat} {vs : List Half} {a : Scan} (h : FlagsOfMax thr a) :
    FlagsOfMax thr (scanFrom thr i vs a) := by
  induction vs generalizing i a with
  | nil => exact h
  | cons v vs ih => exact ih (h.scanPixel i v.toNat)

theorem flagsOfMax_scanGrid (thr : Nat) (grid : List Half) : FlagsOfMax thr (scanGrid thr grid) :=
  (flagsOfMax_scanInit thr).scanFrom

/-! ## The extremes of a scan (R139) -/

theorem le_scanFrom_tmin {thr i n : Nat} {vs : List Half} {a : Scan} :
    n ≤ (scanFrom thr i vs a).tmin ↔ n ≤ a.tmin ∧ ∀ v ∈ vs, n ≤ v.toNat := by
  induction vs generalizing i a with
  | nil => simp [scanFrom]
  | cons v vs ih => rw [scanFrom, ih, scanPixel_tmin, le_min_iff, and_assoc, List.forall_mem_cons]

theorem scanFrom_tmax_le {thr i n : Nat} {vs : List Half} {a : Scan} (h : FlagsOfMax thr a) :
    (scanFrom thr i vs a).tmax ≤ n ↔ a.tmax ≤ n ∧ ∀ v ∈ vs, min v.toNat 30000 ≤ n := by
  induction vs generalizing i a with
  | nil => simp [scanFrom]
  | cons v vs ih =>
    rw [scanFrom, ih (h.scanPixel i v.toNat), scanPixel_tmax h.ceiling, max_le_iff, and_assoc, List.forall_mem_cons]

theorem le_scanGrid_tmin {thr n : Nat} {grid : List Half} :
    n ≤ (scanGrid thr grid).tmin ↔ n ≤ 30000 ∧ ∀ v ∈ grid, n ≤ v.toNat := le_scanFrom_tmin

theorem scanGrid_tmax_le {thr n : Nat} {grid : List Half} :
    (scanGrid thr grid).tmax ≤ n ↔ ∀ v ∈ grid, min v.toNat 30000 ≤ n :=
  (scanFrom_tmax_le (flagsOfMax_scanInit thr)).trans (and_iff_right (Nat.zero_le n))

/-- The maximum is above a bound exactly when the bound is below the ceiling and some sample is above it. -/
theorem lt_scanGrid_tmax {thr n : Nat} {grid : List Half} :
    n < (scanGrid thr grid).tmax ↔ n < 30000 ∧ ∃ v ∈ grid, n < v.toNat := by
  rw [← not_le, scanGrid_tmax_le]
  simp only [not_forall, not_le, lt_min_iff, exists_prop]
  exact ⟨fun ⟨v, hv, hlt, hn⟩ => ⟨hn, v, hv, hlt⟩, fun ⟨hn, v, hv, hlt⟩ => ⟨v, hv, hlt, hn⟩⟩

theorem scanGrid_tmin_eq {thr vmin : Nat} {grid : List Half} (hle : ∀ v ∈ grid, vmin ≤ v.toNat)
    (hmem : ∃ v ∈ grid, v.toNat = vmin) : (scanGrid thr grid).tmin = min 30000 vmin := by
  obtain ⟨m, hm, rfl⟩ := hmem
  refine eq_of_forall_le_iff fun n => ?_
  rw [le_scanGrid_tmin, le_min_iff]
  exact and_congr_right fun _ => ⟨fun h => h m hm, fun h v hv => h.trans (hle v hv)⟩

theorem scanGrid_tmax_eq {thr vmax : Nat} {grid : List Half} (hge : ∀ v ∈ grid, v.toNat ≤ vmax)
    (hmem : ∃ v ∈ grid, v.toNat = vmax) : (scanGrid thr grid).tmax = min 30000 vmax := by
  obtain ⟨m, hm, rfl⟩ := hmem
  refine eq_of_forall_ge_iff fun n => ?_
  rw [scanGrid_tmax_le, min_comm]
  exact ⟨fun h => h m hm, fun h v hv => (min_le_min_right 30000 (hge v hv)).trans h⟩

/-! ## A scan cut in two (R140) -/

theorem scanFrom_append (thr i : Nat) (us vs : List Half) (a : Scan) :
    scanFrom thr i (us ++ vs) a = scanFrom thr (i + us.length) vs (scanFrom thr i us a) := by
  induction us generalizing i a with
  | nil => rfl
  | cons u us ih =>
    rw [List.cons_append, scanFrom, ih, scanFrom, List.length_cons, Nat.add_right_comm, Nat.add_assoc]

theorem scanGrid_append (thr : Nat) (us vs : List Half) :
    scanGrid thr (us ++ vs) = scanFrom thr us.length vs (scanGrid thr us) := by
  rw [scanGrid, scanFrom_append, Nat.zero_add, scanGrid]

/-- Settles O29: the next prefix is the same one, or it has one pixel more, which moves each accumulator one way. -/
theorem scanMonotone : Obligations.ScanMonotone := by
  intro thr grid k
  rw [List.take_add_one, scanGrid_append]
  cases grid[k]? with
  | none => exact ⟨le_rfl, le_rfl, id⟩
  | some v =>
    refine ⟨?maximum, ?minimum, scanPixel_occ_of_occ⟩
    case maximum =>
      exact (le_max_left _ _).trans (scanPixel_tmax (flagsOfMax_scanGrid thr (grid.take k)).ceiling).ge
    case minimum => exact (scanPixel_tmin _ _ _ _).trans_le (min_le_left _ _)

/-! ## The recorded pixel (R142) -/

/-- Samples not above the maximum leave the recorded pixel. -/
theorem scanFrom_hot_of_le {thr i : Nat} {vs : List Half} {a : Scan} (h : ∀ v ∈ vs, v.toNat ≤ a.tmax) :
    (scanFrom thr i vs a).hot = a.hot := by
  induction vs generalizing i a with
  | nil => rfl
  | cons v vs ih =>
    obtain ⟨hv, hvs⟩ := List.forall_mem_cons.1 h
    rw [scanFrom, scanPixel_of_le hv]
    exact ih hvs

/-- The recorded pixel is the one whose sample is above the maximum before it, with no sample behind it above the maximum
it sets. -/
theorem scanGrid_hot {thr i : Nat} {grid : List Half} {v : Half} (hi : grid[i]? = some v)
    (hbefore : (scanGrid thr (grid.take i)).tmax < v.toNat)
    (hafter : ∀ u ∈ grid.drop (i + 1), u.toNat ≤ min v.toNat 30000) :
    (scanGrid thr grid).hot = some (i % 32, i / 32) := by
  obtain ⟨hlt, rfl⟩ := List.getElem?_eq_some_iff.1 hi
  have hcut : grid = grid.take i ++ grid[i] :: grid.drop (i + 1) := by
    rw [List.getElem_cons_drop, List.take_append_drop]
  rw [hcut, scanGrid_append, scanFrom, scanPixel_of_lt hbefore, scanFrom_hot_of_le hafter,
    List.length_take_of_le hlt.le]

theorem forall_mem_take_of_getElem? {α : Type} {p : α → Prop} {l : List α} {i : Nat}
    (h : ∀ k u, k < i → l[k]? = some u → p u) : ∀ u ∈ l.take i, p u := by
  intro u hu
  obtain ⟨k, hk, rfl⟩ := List.mem_take_iff_getElem.1 hu
  exact h k _ (by omega) (List.getElem?_eq_getElem _)

theorem forall_mem_drop_of_getElem? {α : Type} {p : α → Prop} {l : List α} {i : Nat}
    (h : ∀ k u, i < k → l[k]? = some u → p u) : ∀ u ∈ l.drop (i + 1), p u := by
  intro u hu
  obtain ⟨k, hk⟩ := List.mem_iff_getElem?.1 hu
  rw [List.getElem?_drop] at hk
  exact h _ u (by omega) hk

/-- A maximum up to the ceiling: the first pixel that holds it (R142). -/
theorem scanGrid_hot_of_first_max {thr i : Nat} {grid : List Half} {v : Half} (hi : grid[i]? = some v)
    (hpos : 0 < v.toNat) (hceil : v.toNat ≤ 30000) (hmax : ∀ u ∈ grid, u.toNat ≤ v.toNat)
    (hfirst : ∀ k u, k < i → grid[k]? = some u → u.toNat < v.toNat) :
    (scanGrid thr grid).hot = some (i % 32, i / 32) := by
  refine scanGrid_hot hi ?before fun u hu => ?after
  case before =>
    refine Nat.lt_of_le_pred hpos (scanGrid_tmax_le.2 fun u hu => min_le_of_left_le ?_)
    exact Nat.le_pred_of_lt (forall_mem_take_of_getElem? hfirst u hu)
  case after =>
    have hle := hmax u (List.mem_of_mem_drop hu)
    exact le_min hle (hle.trans hceil)

/-- A maximum above the ceiling: the last pixel above the ceiling (R142). -/
theorem scanGrid_hot_of_last_above {thr i : Nat} {grid : List Half} {v : Half} (hi : grid[i]? = some v)
    (hceil : 30000 < v.toNat) (hlast : ∀ k u, i < k → grid[k]? = some u → u.toNat ≤ 30000) :
    (scanGrid thr grid).hot = some (i % 32, i / 32) :=
  scanGrid_hot hi ((flagsOfMax_scanGrid thr _).ceiling.trans_lt hceil) fun u hu =>
    have hu := forall_mem_drop_of_getElem? hlast u hu
    le_min (hu.trans hceil.le) hu

/-! ## `ANA` on the elements of the grid (R131) -/

theorem exec_ana_of_grid {s : State} {grid : List Half} (thr : Half) (hs : s.stage = .decoded)
    (htg : Space.contents 768 s.cyc.tg = some grid) :
    exec (.ana thr) s = .next (analyze s thr.toNat grid) :=
  (guardStage_pass hs _).trans (by rw [htg]; rfl)

@[simp] theorem analyze_cyc (s : State) (thr : Nat) (grid : List Half) :
    (analyze s thr grid).cyc = storeScan s.cyc (scanGrid thr grid) := rfl

/-- A value up to the ceiling fits a 16-bit register. -/
theorem toNat_ofNat_of_le_ceiling {n : Nat} (h : n ≤ 30000) : (BitVec.ofNat 16 n).toNat = n := by
  rw [BitVec.toNat_ofNat]
  omega

theorem encode_ana (thr : Half) : encode (.ana thr) = BitVec.ofNat 32 (0x04000000 + thr.toNat) := by
  rw [← encode_ana_ofNat thr.isLt, BitVec.ofNat_toNat, BitVec.setWidth_eq]

/-- Settles O23: the stage guard, then the registers written from the scan and the response. -/
theorem anaFrame : Obligations.AnaFrame := by
  refine fun s thr => ⟨encode_ana thr, fun hs => guardStage_block hs _, fun grid hs htg => ?_⟩
  exact ⟨_, _, _, _, _, _, _, exec_ana_of_grid thr hs htg⟩

/-- Settles O31: the scan is one of the grid and the threshold, and the rest of what `ANA` writes is fixed. -/
theorem anaDependsOnGridOnly : Obligations.AnaDependsOnGridOnly := by
  intro s s' thr grid hs hs' htg heq
  have htg' : Space.contents 768 s'.cyc.tg = some grid := by rw [heq, htg]
  exact ⟨_, _, exec_ana_of_grid thr hs htg, exec_ana_of_grid thr hs' htg', rfl, rfl, rfl, rfl, rfl, rfl, rfl, rfl, rfl,
    ⟨.ok, 0⟩, rfl, rfl⟩

/-- Settles O24: the registers hold the extremes of the scan, and R45 (c) gives their ranges. -/
theorem anaExtremes : Obligations.AnaExtremes := by
  intro s thr grid vmin vmax hs htg hminLe hminMem hmaxGe hmaxMem
  have hrange := detectionRange_analyze (thr := thr.toNat) htg
  have hspan := hrange.span _ rfl
  have hmin := scanGrid_tmin_eq (thr := thr.toNat) hminLe hminMem
  have hmax := scanGrid_tmax_eq (thr := thr.toNat) hmaxGe hmaxMem
  refine ⟨_, _, _, _, exec_ana_of_grid thr hs htg, rfl, rfl, rfl, ?minimum, ?maximum, hrange.ordered _ _ rfl rfl,
    hrange.ceiling _ rfl, fun v hv => ?least, hspan⟩
  case minimum => rw [hmin, toNat_ofNat_of_le_ceiling (min_le_left _ _)]
  case maximum => rw [hmax, toNat_ofNat_of_le_ceiling (min_le_left _ _)]
  case least => exact (BitVec.toNat_ofNat _ 16).trans_le ((Nat.mod_le _ _).trans (scanGrid_tmin_le hv))

theorem spanOf_of_eq {a : Scan} (h : a.tmax = a.tmin) : spanOf a = 100 := if_pos h

theorem spanOf_of_ne {a : Scan} (h : a.tmax ≠ a.tmin) : spanOf a = a.tmax - a.tmin := if_neg h

/-- Settles O25: the registers hold the extremes and the span without loss, since all three are up to the ceiling. -/
theorem anaSpan : Obligations.AnaSpan := by
  intro s thr grid hs htg
  have hlen : grid.length = 768 := (Space.contents_eq_some htg).2
  have hbounds : ScanBounds (scanGrid thr.toNat grid) := scanGrid_bounds hlen
  have hordered := scanGrid_ordered (thr := thr.toNat) hlen
  have hspan := spanOf_range hbounds hordered
  have htmin := toNat_ofNat_of_le_ceiling hbounds.tmin
  have htmax := toNat_ofNat_of_le_ceiling hbounds.tmax
  refine ⟨_, _, _, _, exec_ana_of_grid thr hs htg, rfl, rfl, rfl, fun hab => ?equal, fun hab => ?apart⟩
  case equal =>
    have heq : (scanGrid thr.toNat grid).tmax = (scanGrid thr.toNat grid).tmin := by rw [← htmin, ← htmax, hab]
    rw [spanOf_of_eq heq]
    rfl
  case apart =>
    have hne : (scanGrid thr.toNat grid).tmax ≠ (scanGrid thr.toNat grid).tmin :=
      fun heq => hab (congrArg (BitVec.ofNat 16) heq.symm)
    rw [toNat_ofNat_of_le_ceiling hspan.2, htmin, htmax, spanOf_of_ne hne, Nat.sub_add_cancel hordered]

/-- Settles O26: the grid is all 0 exactly when the maximum is 0, which both flags are read from. -/
theorem anaNoHottestPixel : Obligations.AnaNoHottestPixel := by
  intro s thr grid hs htg
  have hlen : grid.length = 768 := (Space.contents_eq_some htg).2
  have hflags := flagsOfMax_scanGrid thr.toNat grid
  refine ⟨_, exec_ana_of_grid thr hs htg, fun hzero => ?allZero, fun ⟨v, hv, hne⟩ => ?notAllZero⟩
  case allZero =>
    have htmax : (scanGrid thr.toNat grid).tmax = 0 :=
      Nat.le_zero.1 (scanGrid_tmax_le.2 fun v hv => by rw [hzero v hv]; exact min_le_left 0 30000)
    have htmin : (scanGrid thr.toNat grid).tmin = 0 := Nat.le_zero.1 ((scanGrid_ordered hlen).trans_eq htmax)
    have hhot : (scanGrid thr.toNat grid).hot = none := by simpa [hotvOf, htmax] using hflags.hot
    have hocc : (scanGrid thr.toNat grid).occ = false := by simpa [htmax] using hflags.occ
    have hspan : spanOf (scanGrid thr.toNat grid) = 100 := spanOf_of_eq (htmax.trans htmin.symm)
    simp [storeScan, hotvOf, htmax, htmin, hhot, hocc, hspan]
  case notAllZero =>
    have hpos : 0 < v.toNat := Nat.pos_of_ne_zero fun h => hne (BitVec.eq_of_toNat_eq h)
    exact congrArg some (hflags.hot.2 (lt_scanGrid_tmax.2 ⟨by decide, v, hv, hpos⟩))

/-- Settles O27: in both cases the scan records pixel `i`, and its column and row fit the registers. -/
theorem anaHottestPixel : Obligations.AnaHottestPixel := by
  intro s thr grid i v hs htg hi hcases
  have hlen : grid.length = 768 := (Space.contents_eq_some htg).2
  have hlt : i < 768 := hlen ▸ (List.getElem?_eq_some_iff.1 hi).1
  have hhot : (scanGrid thr.toNat grid).hot = some (i % 32, i / 32) := by
    rcases hcases with ⟨hpos, hceil, hmax, hfirst⟩ | ⟨hceil, hlast⟩
    · exact scanGrid_hot_of_first_max hi hpos hceil hmax hfirst
    · exact scanGrid_hot_of_last_above hi hceil hlast
  refine ⟨_, BitVec.ofNat 5 (i % 32), BitVec.ofNat 5 (i / 32), exec_ana_of_grid thr hs htg, ?_, ?_, ?_, ?_, ?_⟩
  · simp [storeScan, hotvOf, hhot]
  · simp [storeScan, hhot]
  · simp [storeScan, hhot]
  all_goals rw [BitVec.toNat_ofNat]; omega

/-- Settles O28: occupancy is set when the maximum is above the threshold, and the maximum is clamped. -/
theorem anaOccupancy : Obligations.AnaOccupancy := by
  intro s thr grid hs htg
  have hocc : (scanGrid thr.toNat grid).occ = true ↔ thr.toNat < 30000 ∧ ∃ v ∈ grid, thr.toNat < v.toNat :=
    (flagsOfMax_scanGrid thr.toNat grid).occ.trans lt_scanGrid_tmax
  refine ⟨_, _, exec_ana_of_grid thr hs htg, rfl, fun hlt => ?below, fun hge => ?above⟩
  case below => exact hocc.trans (and_iff_right hlt)
  case above => exact Bool.eq_false_iff.2 fun h => absurd (hocc.1 h).1 (Nat.not_lt.2 hge)

end Sys2Proof.Machine

/-! SUPPORT. Proofs of the statements about `ALR` (43_alert.md): its outcomes under the clock's duty (R151), the strict
cooldown (R153), the answer below `LAST_TRIG` (R159), the debounce of two alerts (R157), and what writes `LAST_TRIG`
(R158). -/

namespace Sys2Proof.Machine

/-! ## The sample of the clock (R11) -/

/-- Sampling the clock consumes inputs and leaves the block's own state. -/
theorem clockNow_writes_env {s s1 : State} {now : Long} (h : clockNow s = (now, s1)) :
    ∃ e, s1 = { s with env := e } := by
  obtain rfl : (clockNow s).2 = s1 := congrArg Prod.snd h
  unfold clockNow
  split <;> exact ⟨_, rfl⟩

theorem clockRefusal_of_lt_lastTrig {s : State} {t : Long} (h : t < s.lastTrig) :
    clockRefusal s t = some .clockBelowLastTrig := if_pos h

/-! ## `ALR` once the clock is sampled (R151, R152) -/

/-- The firing branch as a record of the fields it writes. -/
theorem alert_of_elapsed {s : State} {now : Long} (h : 500 < now.toNat - s.lastTrig.toNat) :
    alert s true now = { s with
      stage := .alerted
      status := 0
      act := false
      lastTrig := now
      events := s.events ++ [.actSet true, .hold 100, .actSet false]
      responses := s.responses ++ [⟨.ok, 1⟩] } := by
  rcases alert_cases s true now with ⟨-, -, hfired⟩ | ⟨hnot, -⟩
  · have hpulse : (firePulse s now).events = s.events ++ [.actSet true, .hold 100, .actSet false] := by simp
    rw [hfired, ← hpulse]
    rfl
  · exact absurd ⟨rfl, h⟩ hnot

/-- The branch without a pulse as a record of the fields it writes. -/
theorem alert_of_quiet {s : State} {occ : Bool} {now : Long}
    (h : occ = false ∨ now.toNat - s.lastTrig.toNat ≤ 500) :
    alert s occ now = { s with stage := .alerted, status := 0, responses := s.responses ++ [⟨.ok, 0⟩] } := by
  rcases alert_cases s occ now with ⟨hocc, helapsed, -⟩ | ⟨-, hquiet⟩
  · rcases h with hfree | hcooling
    · cases hocc.symm.trans hfree
    · exact absurd helapsed (Nat.not_lt.2 hcooling)
  · exact hquiet

/-- In stage 5 an answer that breaks the clock's duty is refused under its name (R159, U6). -/
theorem exec_alr_of_clockRefusal {s s1 : State} {now : Long} {occ : Bool} {r : Refusal} (hs : s.stage = .analyzed)
    (hocc : s.cyc.occ = some occ) (hclock : clockNow s = (now, s1)) (hr : clockRefusal s now = some r) :
    exec .alr s = .refused r :=
  (guardStage_pass hs _).trans (by simp only [hocc, hclock, hr])

/-- Settles O35: an answer below `LAST_TRIG` breaks the duty under that name. -/
theorem alrRefusesClockBelowLastTrig : Obligations.AlrRefusesClockBelowLastTrig :=
  fun _ _ _ _ hs hocc hclock hlt => exec_alr_of_clockRefusal hs hocc hclock (clockRefusal_of_lt_lastTrig hlt)

section

variable {s s1 : State} {now : Long} {occ : Bool} (hs : s.stage = .analyzed) (hclock : clockNow s = (now, s1))
  (hlast : s.lastTrig ≤ now) (hgiven : s.env.clockGiven.headD 0 ≤ now)

include hs hclock hlast hgiven

/-- In stage 5 an answer that keeps the clock's duty is acted on. -/
theorem exec_alr_of_duty (hocc : s.cyc.occ = some occ) : exec .alr s = .next (alert s1 occ now) :=
  (guardStage_pass hs _).trans (by simp only [hocc, hclock, clockRefusal_eq_none.2 ⟨hlast, hgiven⟩])

/-- With occupancy and more than 500 ms elapsed, `ALR` fires (R151, R152). -/
theorem exec_alr_of_elapsed (hocc : s.cyc.occ = some true) (helapsed : 500 < now.toNat - s.lastTrig.toNat) :
    exec .alr s = .next { s1 with
      stage := .alerted
      status := 0
      act := false
      lastTrig := now
      events := s.events ++ [.actSet true, .hold 100, .actSet false]
      responses := s.responses ++ [⟨.ok, 1⟩] } := by
  rw [exec_alr_of_duty hs hclock hlast hgiven hocc]
  obtain ⟨e, rfl⟩ := clockNow_writes_env hclock
  exact congrArg Host.Outcome.next (alert_of_elapsed helapsed)

/-- Without occupancy, or with at most 500 ms elapsed, `ALR` leaves output and `LAST_TRIG` (R151, R155). -/
theorem exec_alr_of_quiet (hocc : s.cyc.occ = some occ)
    (hquiet : occ = false ∨ now.toNat - s.lastTrig.toNat ≤ 500) :
    exec .alr s = .next { s with
      env := s1.env, stage := .alerted, status := 0, responses := s.responses ++ [⟨.ok, 0⟩] } := by
  rw [exec_alr_of_duty hs hclock hlast hgiven hocc]
  obtain ⟨e, rfl⟩ := clockNow_writes_env hclock
  exact congrArg Host.Outcome.next (alert_of_quiet hquiet)

end

/-- Settles O32: the stage guard, then the two branches on occupancy and elapsed time. -/
theorem alrOutcomes : Obligations.AlrOutcomes := by
  refine ⟨rfl, fun s => ⟨fun hs => guardStage_block hs _, ?_⟩⟩
  intro now s1 occ hs hclock hocc hlast hgiven
  refine ⟨?fires, ?quiet⟩
  case fires =>
    rintro rfl helapsed
    exact exec_alr_of_elapsed hs hclock hlast hgiven hocc helapsed
  case quiet =>
    intro hquiet
    rw [exec_alr_of_quiet hs hclock hlast hgiven hocc hquiet]
    obtain ⟨e, rfl⟩ := clockNow_writes_env hclock
    rfl

/-- Settles O34: no occupancy is the first of the two causes of no pulse. -/
theorem alrWithoutOccupancy : Obligations.AlrWithoutOccupancy :=
  fun _ _ _ hs hocc hclock hlast hgiven => exec_alr_of_quiet hs hclock hlast hgiven hocc (.inl rfl)

/-! ## The cooldown and the debounce (R153, R157) -/

/-- Settles O33: under the duty the difference of time stamps is the natural one, and the pulse is what tells the two
branches apart. -/
theorem alrStrictCooldown : Obligations.AlrStrictCooldown := by
  intro s s1 now hs hocc hclock hlast hgiven
  have hle : s.lastTrig.toNat ≤ now.toNat := hlast
  have hlt : now.toNat < 2 ^ 64 := now.isLt
  refine ⟨by omega, by omega, ?_⟩
  by_cases helapsed : 500 < now.toNat - s.lastTrig.toNat
  · exact ⟨_, exec_alr_of_elapsed hs hclock hlast hgiven hocc helapsed, iff_of_true rfl (by omega),
      fun h => by omega, fun _ => rfl⟩
  · exact ⟨_, exec_alr_of_quiet hs hclock hlast hgiven hocc (.inr (Nat.not_lt.1 helapsed)),
      iff_of_false (by simp) (by omega), fun _ => ⟨rfl, rfl⟩, fun h => by omega⟩

/-- An `ALR` in stage 5 that answers `(OK, 1)` has stored its sample of the clock (R152). -/
theorem lastTrig_of_exec_alr_fired {s t : State} (hs : s.stage = .analyzed) (h : exec .alr s = .next t)
    (hresp : t.responses = s.responses ++ [⟨.ok, 1⟩]) : t.lastTrig = (clockNow s).1 := by
  rcases exec_alr_next h with ⟨hs', -⟩ | ⟨-, occ, -, -, -, rfl⟩
  · exact absurd hs hs'
  · rcases alert_cases (clockNow s).2 occ (clockNow s).1 with ⟨-, -, hfired⟩ | ⟨-, hquiet⟩
    · rw [hfired]; rfl
    · simp [hquiet] at hresp

/-- Settles O37: the first alert leaves `t1` in `LAST_TRIG`, and the second compares its sample with it. -/
theorem debounceTwoAlerts : Obligations.DebounceTwoAlerts := by
  intro s s' u u1 t1 t2 hs hexec hresp ht1 hu hocc hkept hclock hle hgiven
  have hlastTrig : u.lastTrig = t1 := hkept.trans ((lastTrig_of_exec_alr_fired hs hexec hresp).trans ht1)
  have hlast : u.lastTrig ≤ t2 := hlastTrig ▸ hle
  by_cases helapsed : 500 < t2.toNat - t1.toNat
  · exact ⟨_, exec_alr_of_elapsed hu hclock hlast hgiven hocc (hlastTrig ▸ helapsed),
      fun h => absurd helapsed (Nat.not_lt.2 h), fun _ => ⟨rfl, rfl⟩⟩
  · exact ⟨_, exec_alr_of_quiet hu hclock hlast hgiven hocc (.inr (hlastTrig ▸ Nat.not_lt.1 helapsed)),
      fun _ => ⟨rfl, hlastTrig⟩, fun h => absurd h helapsed⟩

/-! ## What writes `LAST_TRIG` (R158) -/

@[simp] theorem decodeFrame_lastTrig (s : State) (frame : List Byte) : (decodeFrame s frame).lastTrig = s.lastTrig := rfl
@[simp] theorem analyze_lastTrig (s : State) (thr : Nat) (grid : List Half) :
    (analyze s thr grid).lastTrig = s.lastTrig := rfl
@[simp] theorem render_lastTrig (s : State) (tmin span : Nat) (grid : List Half) (hot : Option (Nat × Nat × Half)) :
    (render s tmin span grid hot).lastTrig = s.lastTrig := rfl
@[simp] theorem handOver_lastTrig (s : State) (ov : Overlay) : (handOver s ov).lastTrig = s.lastTrig := rfl

/-- From `s` to `t` the pulse fired: with occupancy in stage 5, after more than 500 ms (R151, R158). -/
structure Fired (s t : State) : Prop where
  stage : s.stage = .analyzed
  occ : s.cyc.occ = some true
  raised : s.lastTrig.toNat + 500 < t.lastTrig.toNat
  pulse : t.events = s.events ++ [.actSet true, .hold 100, .actSet false]

/-- A command leaves `LAST_TRIG`, or it is an `ALR` that fires. -/
theorem exec_next_lastTrig {i : Instr} {s t : State} (h : exec i s = .next t) :
    t.lastTrig = s.lastTrig ∨ i = .alr ∧ Fired s t := by
  cases i with
  | acq => left; rcases exec_acq_next h with ⟨-, rfl⟩ | ⟨-, -, rfl⟩ | ⟨-, rfl⟩ | ⟨-, -, rfl⟩ <;> simp
  | val => left; rcases exec_val_next h with ⟨-, rfl⟩ | ⟨-, rfl | rfl⟩ | ⟨-, f, -, -, -, rfl⟩ <;> simp
  | dec => left; rcases exec_dec_next h with ⟨-, rfl⟩ | ⟨-, f, -, rfl⟩ <;> simp
  | ana thr => left; rcases exec_ana_next h with ⟨-, rfl⟩ | ⟨-, g, -, rfl⟩ <;> simp
  | alr =>
    rcases exec_alr_next h with ⟨-, rfl⟩ | ⟨hs, occ, hocc, -, -, rfl⟩
    · left; simp
    · rcases alert_cases (clockNow s).2 occ (clockNow s).1 with ⟨rfl, helapsed, hfired⟩ | ⟨-, hquiet⟩
      · right
        rw [clockNow_lastTrig] at helapsed
        rw [hfired]
        exact ⟨rfl, hs, hocc, by simpa using Nat.add_lt_of_lt_sub' helapsed, by simp⟩
      · left; simp [hquiet]
  | ren => left; rcases exec_ren_next h with ⟨-, rfl⟩ | ⟨-, g, a, d, m, -, -, -, -, rfl⟩ <;> simp
  | prs => left; rcases exec_prs_next h with ⟨-, rfl⟩ | ⟨-, ct, hv, -, -, rfl⟩ <;> simp
  | endCycle => left; simp [exec_end_next h]
  | rdr n => left; obtain ⟨c, d, rfl, -⟩ := exec_rdr_next h; simp
  | rdt k => left; obtain ⟨c, d, rfl, -⟩ := exec_rdt_next h; simp

/-- Settles O38: waiting and an illegal word leave `LAST_TRIG`, reset clears it, and a command that changes it is a
firing `ALR`, whose own word was offered. -/
theorem lastTrigWrittenByFiringOnly : Obligations.LastTrigWrittenByFiringOnly := by
  intro s t h hne
  rcases step_cases s with ⟨-, hs⟩ | ⟨rest, ho, hs⟩ | ⟨w, rest, why, -, -, hs⟩ | ⟨w, rest, i, ho, hd, hs⟩
  · obtain rfl := Host.Outcome.next.inj (hs.symm.trans h)
    exact absurd rfl hne
  · obtain rfl := Host.Outcome.next.inj (hs.symm.trans h)
    exact .inl ⟨rest, ho, State.applyReset_lastTrig _⟩
  · obtain rfl := Host.Outcome.next.inj (hs.symm.trans h)
    exact absurd (State.illegalWord_lastTrig _) hne
  · obtain rfl := eq_encode_of_decode hd
    obtain ⟨rfl, hfired⟩ := (exec_next_lastTrig (hs.symm.trans h)).resolve_left hne
    exact .inr ⟨rest, ho, hfired.stage, hfired.occ, hfired.raised, hfired.pulse⟩

end Sys2Proof.Machine

/-! SUPPORT. Proofs of the statements about `REN` and `PRS` (44_render.md): the rounding and the range of the
normalisation (R168, R170), the display pixel by pixel (R173, R174), every outcome of `REN` (R166), and the hand-over
(R180). -/

namespace Sys2Proof.Machine

/-! ## The normalisation of one sample (R168 to R170) -/

theorem normalise_eq (tmin span t : Nat) :
    normalise tmin span t = min 255 ((2 * 255 * (t - tmin) + span) / (2 * span)) := by
  rw [normalise, Nat.min_comm, Nat.mul_assoc]

theorem normalise_le (tmin span t : Nat) : normalise tmin span t ≤ 255 := Nat.min_le_right _ _

theorem normalise_tmin {tmin span : Nat} (h : 1 ≤ span) : normalise tmin span tmin = 0 := by
  rw [normalise_eq, Nat.sub_self, Nat.mul_zero, Nat.zero_add, Nat.div_eq_of_lt (by omega), Nat.min_zero]

/-- A sample a whole span above the minimum reaches the limit. -/
theorem normalise_of_span_le {tmin span t : Nat} (hpos : 1 ≤ span) (h : span ≤ t - tmin) :
    normalise tmin span t = 255 := by
  have hq : 255 ≤ (2 * 255 * (t - tmin) + span) / (2 * span) := (Nat.le_div_iff_mul_le (by omega)).2 (by omega)
  rw [normalise_eq, Nat.min_eq_left hq]

/-- Adding half the divisor before the division rounds to the nearest integer, a tie up. -/
theorem floor_div_add_half (n : Nat) {d : Nat} (h : 1 ≤ d) :
    ⌊(n : ℚ) / d + 1 / 2⌋ = ((2 * n + d) / (2 * d) : Nat) := by
  have hd : (d : ℚ) ≠ 0 := Nat.cast_ne_zero.2 (by omega)
  have hfrac : (n : ℚ) / d + 1 / 2 = ((2 * n + d : Nat) : ℚ) / (2 * d : Nat) := by
    push_cast
    field_simp
  rw [hfrac, Rat.floor_natCast_div_natCast, Int.natCast_div]

/-- The normalisation is the exact rational, rounded and limited (R168). -/
theorem natCast_normalise {tmin span t : Nat} (hpos : 1 ≤ span) (h : tmin ≤ t) :
    (normalise tmin span t : Int) = min 255 ⌊(255 * ((t : ℚ) - tmin)) / span + 1 / 2⌋ := by
  have hnum : 255 * ((t : ℚ) - tmin) = (255 * (t - tmin) : Nat) := by rw [Nat.cast_mul, Nat.cast_sub h]; rfl
  rw [hnum, floor_div_add_half _ hpos, normalise_eq, Nat.mul_assoc, Nat.cast_min]
  rfl

/-- Settles O40: the quotient of naturals is the floor of the rational plus one half. -/
theorem normaliseRounding : Obligations.NormaliseRounding := fun tmin span t hpos _ hle _ =>
  ⟨normalise_eq tmin span t, natCast_normalise hpos hle, by omega⟩

/-- Settles O41: the limit is reached a whole span above the minimum, on a flat grid at the ceiling 100 above it. -/
theorem normaliseRange : Obligations.NormaliseRange := by
  refine ⟨fun _ _ => normalise_tmin, fun _ _ _ hlt hle => ?_, fun _ hv => ?_, fun _ hv => ?_⟩
  · exact normalise_of_span_le (by omega) (by omega)
  · exact natCast_normalise (by decide) hv
  · exact normalise_of_span_le (by decide) (by omega)

/-! ## The display pixel by pixel (R173, R174) -/

/-- A table written row by row holds the element of row `Y` and column `X` at `Y * n + X`. -/
theorem getElem?_flatMap_rows {α : Type} {m n X Y : Nat} (f : Nat → Nat → α) (hX : X < n) (hY : Y < m) :
    ((List.range m).flatMap fun Y => (List.range n).map (f Y))[Y * n + X]? = some (f Y X) := by
  induction m with
  | zero => omega
  | succ m ih =>
    have hlen : ((List.range m).flatMap fun Y => (List.range n).map (f Y)).length = m * n := by
      simp [List.length_flatMap]
    rw [List.range_succ, List.flatMap_append, List.flatMap_singleton]
    rcases Nat.lt_succ_iff_lt_or_eq.1 hY with hlt | rfl
    · have hin : Y * n + X < m * n := by
        have := Nat.mul_le_mul_right n hlt
        rw [Nat.succ_mul] at this
        omega
      rw [List.getElem?_append_left (hlen ▸ hin), ih hlt]
    · rw [List.getElem?_append_right (by omega), hlen, Nat.add_sub_cancel_left, List.getElem?_map,
        List.getElem?_range hX, Option.map_some]

section
variable {p : Config.Params} {color : List Colour} {X Y : Nat}

theorem sourcePixel_lt (hX : X < p.dispW) (hY : Y < p.dispH) : sourcePixel p X Y < 768 := by
  have hx : X / p.sx < 32 := (Nat.div_lt_iff_lt_mul p.sx_pos).2 hX
  have hy : Y / p.sy < 24 := (Nat.div_lt_iff_lt_mul p.sy_pos).2 hY
  rw [sourcePixel, Config.width_eq]
  omega

/-- A display pixel shows its sensor pixel's colour (R173). -/
theorem getElem?_upscale (h : color.length = 768) (hX : X < p.dispW) (hY : Y < p.dispH) :
    (upscale p color)[Y * p.dispW + X]? = color[sourcePixel p X Y]? := by
  have hsource : sourcePixel p X Y < color.length := h ▸ sourcePixel_lt hX hY
  rw [upscale, getElem?_flatMap_rows _ hX hY, List.getD_eq_getElem _ _ hsource, List.getElem?_eq_getElem hsource]

end

/-- Column `d` of block `x`, of blocks `n` wide, lies in block `x`. -/
theorem block_div {n d : Nat} (x : Nat) (h : d < n) : (x * n + d) / n = x := by
  rw [Nat.add_comm, Nat.add_mul_div_right _ _ (by omega), Nat.div_eq_of_lt h, Nat.zero_add]

/-- The first `m` blocks of width `n` stay below `m * n`. -/
theorem block_lt {m n x d : Nat} (hx : x < m) (hd : d < n) : x * n + d < m * n :=
  (Nat.div_lt_iff_lt_mul (by omega)).1 ((block_div x hd).symm ▸ hx)

/-- At scale 1 the display is the sensor image (R174). -/
theorem upscale_of_scale_one {p : Config.Params} {color : List Colour} (h : color.length = 768) (hx : p.sx = 1)
    (hy : p.sy = 1) : upscale p color = color := by
  have hW : p.dispW = 32 := by rw [Config.Params.dispW, hx, Config.width_eq]
  have hH : p.dispH = 24 := by rw [Config.Params.dispH, hy, Config.height_eq]
  have hlen : (upscale p color).length = color.length := by rw [length_upscale, hW, hH, h]
  refine List.ext_getElem? fun i => ?_
  by_cases hi : i < 768
  · have hpixel := getElem?_upscale (p := p) (X := i % 32) (Y := i / 32) h (by omega) (by omega)
    rwa [sourcePixel, hx, hy, Nat.div_one, Nat.div_one, hW, Config.width_eq, Nat.div_add_mod'] at hpixel
  · rw [List.getElem?_eq_none (by omega), List.getElem?_eq_none (by omega)]

/-- Settles O42: the display pixel at column `dx` and row `dy` of a block has the block's sensor pixel as its source. -/
theorem upscaleReplicates : Obligations.UpscaleReplicates := by
  refine fun p color h => ⟨length_upscale p color, fun x y dx dy hx hy hdx hdy => ?_, upscale_of_scale_one h⟩
  have hcol := block_div x hdx
  have hrow := block_div y hdy
  have hpixel := getElem?_upscale h (p := p) (block_lt hx hdx) (block_lt hy hdy)
  rw [sourcePixel, hcol, hrow, Config.width_eq, Nat.mul_comm y 32] at hpixel
  exact ⟨hpixel, hcol, hrow⟩

/-! ## `REN` on inputs that are held and in range (R166) -/

/-- The hottest pixel as the detection registers give it: its column, its row and its sample (R176, R177). -/
abbrev Mark := BitVec 5 × BitVec 5 × Half

/-- A mark as `REN` reads it. -/
def Mark.read (m : Mark) : Nat × Nat × Half := (m.1.toNat, m.2.1.toNat, m.2.2)

theorem hottest_of_none {c : Cycle} (h : c.hotv = some false) : hottest c = some none := by
  rw [hottest, h]

theorem hottest_of_some {c : Cycle} {grid : List Half} {x y : BitVec 5} {v : Half}
    (htg : Space.contents 768 c.tg = some grid) (hv : c.hotv = some true) (hx : c.hotx = some x) (hy : c.hoty = some y)
    (hpixel : grid[32 * y.toNat + x.toNat]? = some v) : hottest c = some (some (x.toNat, y.toNat, v)) := by
  have hread : Space.read c.tg (Config.width * y.toNat + x.toNat) = some v := by
    rw [(Space.contents_eq_some htg).1, Space.read_fill, Config.width_eq, hpixel]
  simp only [hottest, hv, hx, hy, hread, Option.map_some]

theorem exec_ren_of_inputs {s : State} {grid : List Half} {tmin span : Half} {hot : Option (Nat × Nat × Half)}
    (hs : s.stage = .alerted) (htg : Space.contents 768 s.cyc.tg = some grid) (htmin : s.cyc.tmin = some tmin)
    (hspan : s.cyc.span = some span) (hhot : hottest s.cyc = some hot) (hpos : 1 ≤ span.toNat)
    (hrange : ∀ v ∈ grid, tmin.toNat ≤ v.toNat) :
    exec .ren s = .next (render s tmin.toNat span.toNat grid hot) := by
  have hin : renderInRange tmin.toNat span.toNat grid = true := by simpa [renderInRange, hpos] using hrange
  exact (guardStage_pass hs _).trans (by rw [htg, htmin, hspan, hhot]; exact if_pos hin)

/-- The state `REN` leaves, as a record of the fields it writes. -/
theorem render_eq {s : State} {tmin span : Nat} {grid : List Half} (h : grid.length = 768) (mark : Option Mark) :
    render s tmin span grid (mark.map Mark.read) = { s with
      stage := .rendered
      cyc := { s.cyc with
        gray := Space.fill (grayOf tmin span grid)
        color := Space.fill (colorOf s.cfg (grayOf tmin span grid))
        disp := Space.fill (upscale s.cfg (colorOf s.cfg (grayOf tmin span grid)))
        ovCt := grid[400]?
        ovHv := some mark.isSome
        ovHx := mark.map fun m => BitVec.ofNat 16 (m.1.toNat * s.cfg.sx)
        ovHy := mark.map fun m => BitVec.ofNat 16 (m.2.1.toNat * s.cfg.sy)
        ovHt := mark.map fun m => m.2.2 }
      status := 0
      responses := s.responses ++ [⟨.ok, 0⟩] } := by
  have hcenter : grid[400]? = some (grid.getD Config.centerIdx 0) := by
    rw [Config.centerIdx_eq, List.getD_eq_getElem _ _ (by omega), List.getElem?_eq_getElem (by omega)]
  rw [hcenter]
  cases mark <;> rfl

theorem Space.isSome_contents_fill {w n : Nat} {vs : List (BitVec w)} (h : vs.length = n) :
    (Space.contents n (Space.fill vs)).isSome := by
  rw [Space.contents_fill_of_length h]
  rfl

theorem toNat_ofNat_normalise (tmin span t : Nat) :
    (BitVec.ofNat 8 (normalise tmin span t)).toNat = normalise tmin span t := by
  have := normalise_le tmin span t
  rw [BitVec.toNat_ofNat]
  omega

theorem length_grayOf (tmin span : Nat) (grid : List Half) : (grayOf tmin span grid).length = grid.length :=
  List.length_map _

theorem length_colorOf (p : Config.Params) (gray : List Byte) : (colorOf p gray).length = gray.length :=
  List.length_map _

theorem grayOf_getElem? {grid : List Half} {i : Nat} {v : Half} (tmin span : Nat) (h : grid[i]? = some v) :
    (grayOf tmin span grid)[i]? = some (BitVec.ofNat 8 (normalise tmin span v.toNat)) := by
  rw [grayOf, List.getElem?_map, h, Option.map_some]

theorem colorOf_getElem? {gray : List Byte} {i : Nat} {g : Byte} (p : Config.Params) (h : gray[i]? = some g) :
    (colorOf p gray)[i]? = some (p.colour g) := by
  rw [colorOf, List.getElem?_map, h, Option.map_some]

/-- Settles O39: the detection registers give the mark, and each buffer is filled with the list of its elements. -/
theorem renOutcomes : Obligations.RenOutcomes := by
  refine ⟨rfl, fun s => ⟨fun hs => guardStage_block hs _, ?_⟩⟩
  intro grid tmin span mark hs htg htmin hspan hpos hrange hmark
  have hhot : hottest s.cyc = some (mark.map Mark.read) := by
    rcases hmark with ⟨rfl, hv⟩ | ⟨x, y, v, rfl, hv, hx, hy, hpixel⟩
    · exact hottest_of_none hv
    · exact hottest_of_some htg hv hx hy hpixel
  have hlen : grid.length = 768 := (Space.contents_eq_some htg).2
  have hgray : (grayOf tmin.toNat span.toNat grid).length = 768 := (length_grayOf _ _ _).trans hlen
  have hcolor : (colorOf s.cfg (grayOf tmin.toNat span.toNat grid)).length = 768 := (length_colorOf _ _).trans hgray
  have hexec := exec_ren_of_inputs hs htg htmin hspan hhot hpos hrange
  rw [render_eq hlen] at hexec
  refine ⟨_, _, _, hexec, fun i v hi => ?_, fun X Y hX hY => ?_, Space.isSome_contents_fill hgray,
    Space.isSome_contents_fill hcolor, Space.isSome_contents_fill (length_upscale _ _)⟩
  · have hg := grayOf_getElem? tmin.toNat span.toNat hi
    refine ⟨_, (toNat_ofNat_normalise _ _ _).trans (normalise_eq _ _ _), ?_, ?_⟩
    · rw [Space.read_fill, hg]
    · rw [Space.read_fill, colorOf_getElem? _ hg]
  · rw [Space.read_fill, Space.read_fill]
    exact getElem?_upscale hcolor hX hY

/-! ## `PRS` on a held image (R180) -/

theorem exec_prs_of_image {s : State} {ct : Half} {hv : Bool} (hs : s.stage = .rendered) (hct : s.cyc.ovCt = some ct)
    (hhv : s.cyc.ovHv = some hv) (himage : displayHeld s = true) :
    exec .prs s = .next (handOver s ⟨ct, hv, s.cyc.ovHx, s.cyc.ovHy, s.cyc.ovHt⟩) :=
  (guardStage_pass hs _).trans (by rw [hct, hhv]; exact if_pos himage)

/-- Settles O43: the stage guard, then the one event with the image and the descriptor. -/
theorem prsOutcome : Obligations.PrsOutcome :=
  ⟨rfl, fun _ => ⟨fun hs => guardStage_block hs _, fun _ _ => exec_prs_of_image⟩⟩

end Sys2Proof.Machine

/-! SUPPORT. Proofs of the statements about the sequencer's access commands (45_sequencer_access.md): `END` (R191), `RDR`
on every register of table T46 (R192, R193), `RDT` (R194), and the answer to a word that is no command (R202, R214). -/

namespace Sys2Proof.Machine

/-! ## The words of the access commands (T81, T82) -/

/-- A command's word as a number: the opcode in the top byte, the immediate in the low half. -/
theorem encode_eq_ofNat {i : Instr} {base : Nat} (h : i.opcode.toNat * 16777216 = base) :
    encode i = BitVec.ofNat 32 (base + i.imm.toNat) := by
  rw [← h, ← toNat_encode, BitVec.ofNat_toNat, BitVec.setWidth_eq]

theorem encode_rdr (n : Half) : encode (.rdr n) = BitVec.ofNat 32 (0x10000000 + n.toNat) :=
  encode_eq_ofNat (by simp [Instr.opcode])

theorem encode_rdt (i : Half) : encode (.rdt i) = BitVec.ofNat 32 (0x11000000 + i.toNat) :=
  encode_eq_ofNat (by simp [Instr.opcode])

/-! ## `RDR` on a register of table T46 (R46, R192) -/

section
variable {s : State} {n : Half} {r : Reg}

theorem exec_rdr_of_none (hr : regOfImm n = some r) (hv : s.readReg r = none) :
    exec (.rdr n) s = .next (s.answer .badStage 0) := by
  change execRdr n s = _
  rw [execRdr, hr]
  simp only [hv]

theorem exec_rdr_of_value {v : Long} (hr : regOfImm n = some r) (hv : s.readReg r = some v) :
    exec (.rdr n) s = .next (s.answer .ok v) := by
  change execRdr n s = _
  rw [execRdr, hr]
  simp only [hv]

end

/-! ## The registers as numbers (R46) -/

theorem zext64_eq_map_toNat {w : Nat} (v : Option (BitVec w)) :
    zext64 v = (v.map BitVec.toNat).map (BitVec.ofNat 64) := by
  cases v with
  | none => rfl
  | some a => exact congrArg some (BitVec.ofNat_toNat 64 a).symm

theorem map_toNat_bit1 (b : Option Bool) : (bit1 b).map BitVec.toNat = b.map Bool.toNat := by
  cases b with
  | none => rfl
  | some a => exact congrArg some (BitVec.toNat_ofBool a)

/-- What the eighteen registers of table T46 hold, in order, each as a natural number. -/
def State.regNumbers (s : State) : List (Option Nat) :=
  [some s.stage.code.toNat, some s.status.toNat, some s.act.toNat, some s.lastTrig.toNat,
   s.cyc.dlen.map BitVec.toNat, s.cyc.selft.map BitVec.toNat, s.cyc.tmin.map BitVec.toNat,
   s.cyc.tmax.map BitVec.toNat, s.cyc.span.map BitVec.toNat, s.cyc.occ.map Bool.toNat,
   s.cyc.hotv.map Bool.toNat, s.cyc.hotx.map BitVec.toNat, s.cyc.hoty.map BitVec.toNat,
   s.cyc.ovCt.map BitVec.toNat, s.cyc.ovHv.map Bool.toNat, s.cyc.ovHx.map BitVec.toNat,
   s.cyc.ovHy.map BitVec.toNat, s.cyc.ovHt.map BitVec.toNat]

theorem map_readReg (s : State) : regMap.map s.readReg = s.regNumbers.map (Option.map (BitVec.ofNat 64)) := by
  simp only [regMap, State.regNumbers, List.map_cons, List.map_nil, State.readReg, zext64_eq_map_toNat, map_toNat_bit1,
    Option.map_some]

/-- Entry `n` of the list is the value of the register that `n` names. -/
theorem readReg_of_regNumbers {s : State} {n : Half} {v : Option Nat} (h : s.regNumbers[n.toNat]? = some v) :
    ∃ r, regOfImm n = some r ∧ s.readReg r = v.map (BitVec.ofNat 64) := by
  have hentry : (regMap.map s.readReg)[n.toNat]? = some (v.map (BitVec.ofNat 64)) := by
    rw [map_readReg, List.getElem?_map, h, Option.map_some]
  rwa [List.getElem?_map, Option.map_eq_some_iff] at hentry

/-- Settles O45: above 17 no register has the number; up to it the register's value decides the answer. -/
theorem rdrReadsTheRegister : Obligations.RdrReadsTheRegister := by
  refine fun s n => ⟨encode_rdr n, fun hn => exec_rdr_of_badIndex hn s, fun v hv => ?_⟩
  obtain ⟨r, hr, hread⟩ := readReg_of_regNumbers (s := s) hv
  cases v with
  | none => exact exec_rdr_of_none hr hread
  | some a => exact exec_rdr_of_value hr hread

/-! ## The windows of the registers (R193) -/

/-- Where table T46 gives a register no value: before the stage that writes it, and for a coordinate or the overlay's
hottest value also where its flag is clear. -/
def Reg.outside (s : State) : Reg → Prop
  | .stage | .status | .act | .lastTrig => False
  | .dlen => s.stage.code.toNat < 2
  | .selft => s.stage.code.toNat < 3
  | .tmin | .tmax | .span | .occ | .hotv => s.stage.code.toNat < 4
  | .hotx | .hoty => s.stage.code.toNat < 4 ∨ s.cyc.hotv = some false
  | .ovCt | .ovHv => s.stage.code.toNat < 6
  | .ovHx | .ovHy | .ovHt => s.stage.code.toNat < 6 ∨ s.cyc.ovHv = some false

theorem zext64_eq_none_iff {w : Nat} {v : Option (BitVec w)} : zext64 v = none ↔ v = none := Option.map_eq_none_iff

theorem zext64_bit1_eq_none_iff {b : Option Bool} : zext64 (bit1 b) = none ↔ b = none :=
  zext64_eq_none_iff.trans Option.map_eq_none_iff

theorem regWindow.isSome_iff {α : Type} {reg : Option α} {on : Prop} (h : regWindow reg on) : reg.isSome ↔ on := h

/-- A register whose window opens with a stage holds nothing exactly before that stage. -/
theorem regWindow.eq_none_iff_lt {α : Type} {reg : Option α} {st need : Stage} (h : regWindow reg (st.atLeast need)) :
    reg = none ↔ st.code.toNat < need.code.toNat := by
  rw [← Option.not_isSome_iff_eq_none, h.isSome_iff, Nat.not_le]

/-- A register whose window needs a flag too holds nothing exactly before the stage or under a cleared flag. -/
theorem regWindow.eq_none_iff_lt_or {α : Type} {reg : Option α} {flag : Option Bool} {st need : Stage}
    (hflag : regWindow flag (st.atLeast need)) (h : regWindow reg (st.atLeast need ∧ flag = some true)) :
    reg = none ↔ st.code.toNat < need.code.toNat ∨ flag = some false := by
  rw [← hflag.eq_none_iff_lt, ← Option.not_isSome_iff_eq_none, h.isSome_iff, ← hflag.isSome_iff]
  rcases flag with _ | _ | _ <;> simp

/-- Under the invariants a register holds nothing exactly outside its window of table T46. -/
theorem Inv.readReg_eq_none_iff {s : State} (h : Inv s) (r : Reg) : s.readReg r = none ↔ r.outside s := by
  have hw := h.windows
  cases r with
  | stage | status | act | lastTrig => exact iff_of_false nofun id
  | dlen => exact zext64_eq_none_iff.trans hw.dlen.eq_none_iff_lt
  | selft => exact zext64_eq_none_iff.trans hw.selft.eq_none_iff_lt
  | tmin => exact zext64_eq_none_iff.trans hw.tmin.eq_none_iff_lt
  | tmax => exact zext64_eq_none_iff.trans hw.tmax.eq_none_iff_lt
  | span => exact zext64_eq_none_iff.trans hw.span.eq_none_iff_lt
  | occ => exact zext64_bit1_eq_none_iff.trans hw.occ.eq_none_iff_lt
  | hotv => exact zext64_bit1_eq_none_iff.trans hw.hotv.eq_none_iff_lt
  | hotx => exact zext64_eq_none_iff.trans (hw.hotv.eq_none_iff_lt_or hw.hotx)
  | hoty => exact zext64_eq_none_iff.trans (hw.hotv.eq_none_iff_lt_or hw.hoty)
  | ovCt => exact zext64_eq_none_iff.trans hw.ovCt.eq_none_iff_lt
  | ovHv => exact zext64_bit1_eq_none_iff.trans hw.ovHv.eq_none_iff_lt
  | ovHx => exact zext64_eq_none_iff.trans (hw.ovHv.eq_none_iff_lt_or hw.ovHx)
  | ovHy => exact zext64_eq_none_iff.trans (hw.ovHv.eq_none_iff_lt_or hw.ovHy)
  | ovHt => exact zext64_eq_none_iff.trans (hw.ovHv.eq_none_iff_lt_or hw.ovHt)

/-- A register of table T46 has one number, its place in the table. -/
theorem toNat_of_regOfImm {n : Half} {r : Reg} (h : regOfImm n = some r) : n.toNat = regMap.idxOf r := by
  obtain ⟨hlt, rfl⟩ := List.getElem?_eq_some_iff.1 h
  exact (List.Nodup.idxOf_getElem (by decide) _ hlt).symm

/-- The windows of R193, written over register numbers, are those of the registers the numbers name. -/
theorem outside_iff_of_regOfImm {n : Half} {r : Reg} (h : regOfImm n = some r) (s : State) :
    (n.toNat = 4 ∧ s.stage.code.toNat < 2) ∨ (n.toNat = 5 ∧ s.stage.code.toNat < 3) ∨
    (6 ≤ n.toNat ∧ n.toNat ≤ 12 ∧ s.stage.code.toNat < 4) ∨ (13 ≤ n.toNat ∧ s.stage.code.toNat < 6) ∨
    ((n.toNat = 11 ∨ n.toNat = 12) ∧ s.cyc.hotv = some false) ∨ (15 ≤ n.toNat ∧ s.cyc.ovHv = some false) ↔
      r.outside s := by
  rw [toNat_of_regOfImm h]
  cases r <;> simp [regMap, Reg.outside]

/-- Settles O46: a number up to 17 names a register, which under the invariants holds nothing exactly outside its window. -/
theorem rdrOutsideItsWindow : Obligations.RdrOutsideItsWindow := by
  intro s n hinv hn outside houtside
  obtain ⟨r, hr⟩ : ∃ r, regOfImm n = some r := ⟨_, List.getElem?_eq_getElem (Nat.lt_succ_of_le hn)⟩
  have hread : s.readReg r = none ↔ outside :=
    (hinv.readReg_eq_none_iff r).trans ((outside_iff_of_regOfImm hr s).symm.trans houtside.symm)
  refine ⟨fun hout => exec_rdr_of_none hr (hread.2 hout), fun hin => ?_⟩
  obtain ⟨v, hv⟩ := Option.ne_none_iff_exists'.1 (mt hread.1 hin)
  exact ⟨v, exec_rdr_of_value hr hv⟩

/-! ## `RDT` on a pixel of the grid (R194) -/

theorem gridHeld_iff {st : Stage} : gridHeld st = true ↔ 3 ≤ st.code.toNat := decide_eq_true_iff

section
variable {s : State} {i : Half}

theorem pixelOfImm_of_le (hi : i.toNat ≤ 767) : pixelOfImm i = some i.toNat := if_pos (Nat.lt_succ_of_le hi)

theorem exec_rdt_of_early (hi : i.toNat ≤ 767) (hs : s.stage.code.toNat < 3) :
    exec (.rdt i) s = .next (s.answer .badStage 0) := by
  have hgrid : ¬ gridHeld s.stage = true := mt gridHeld_iff.1 (Nat.not_le.2 hs)
  change execRdt i s = _
  rw [execRdt, pixelOfImm_of_le hi]
  simp only [hgrid, if_false, Bool.false_eq_true]

theorem exec_rdt_of_value {v : Half} (hi : i.toNat ≤ 767) (hs : 3 ≤ s.stage.code.toNat)
    (hv : Space.read s.cyc.tg i.toNat = some v) : exec (.rdt i) s = .next (s.answer .ok (v.setWidth 64)) := by
  change execRdt i s = _
  rw [execRdt, pixelOfImm_of_le hi]
  simp only [gridHeld_iff.2 hs, if_true, hv]

end

/-- Settles O47: the index, then the stage, then the grid's element. -/
theorem rdtReadsTheGrid : Obligations.RdtReadsTheGrid := by
  refine fun s i => ⟨encode_rdt i, fun hi => exec_rdt_of_badIndex hi s, fun hi hs => exec_rdt_of_early hi hs,
    fun v hi hs hv => ?_⟩
  rw [BitVec.ofNat_toNat]
  exact exec_rdt_of_value hi hs hv

/-! ## `END` in every stage (R191) -/

theorem exec_endCycle (s : State) :
    exec .endCycle s = .next (State.respond { s.cleanup with stage := .idle } .ok 0) := rfl

/-- Settles O44: `END` has no guard; it empties the cycle, returns to stage 0 and answers. -/
theorem endOutcome : Obligations.EndOutcome := ⟨rfl, exec_endCycle⟩

/-! ## A word that is no command (R202, R214) -/

theorem step_of_illegal {s : State} {w : Word} {rest : List Offer} {why : Illegal}
    (ho : s.env.offered = .command w :: rest) (hd : decode w = .illegal why) :
    step s = .next (State.illegalWord { s with env := { s.env with offered := rest } }) := by
  rcases step_cases s with ⟨ho', -⟩ | ⟨_, ho', -⟩ | ⟨_, _, _, ho', -, hs⟩ | ⟨_, _, _, ho', hd', -⟩
  · cases ho.symm.trans ho'
  · cases ho.symm.trans ho'
  · cases ho.symm.trans ho'
    exact hs
  · cases ho.symm.trans ho'
    cases hd.symm.trans hd'

/-- Settles O9: of all a step can be, the offer leaves the illegal word alone. -/
theorem illegalWordAnswered : Obligations.IllegalWordAnswered := fun _ _ _ _ => step_of_illegal

end Sys2Proof.Machine

/-! SUPPORT. Proofs of the statements about the exceptions (60_exceptions.md): what a rejection leaves alone (R218), `ACQ`
after `END` (R219), and that no step stops under a dutiful environment (R205, R219). -/

namespace Sys2Proof.Machine

/-! ## `ACQ` after `END` (R219) -/

/-- In stage 0 whatever `ACQ` answers is not `BadStage` (R101). -/
theorem response_of_exec_acq_of_idle {s t : State} (hs : s.stage = .idle) (h : exec .acq s = .next t) :
    ∃ r : Response, t.responses = s.responses ++ [r] ∧ r.code ≠ .badStage := by
  rcases exec_acq_next h with ⟨hs', -⟩ | ⟨-, -, rfl⟩ | ⟨-, rfl⟩ | ⟨-, -, rfl⟩
  · exact absurd hs hs'
  · exact ⟨⟨.noData, 0⟩, by simp, nofun⟩
  · exact ⟨⟨.incompleteFrame, 0⟩, by simp, nofun⟩
  · exact ⟨⟨.ok, 0⟩, by simp, nofun⟩

/-- Settles O49: `END` leaves stage 0, the one stage `ACQ` needs. -/
theorem endThenAcqAccepted : Obligations.EndThenAcqAccepted :=
  fun s => ⟨_, exec_endCycle s, rfl, fun _ => response_of_exec_acq_of_idle rfl⟩

/-! ## Completed or rejected (R218) -/

/-- The codes with which `VAL` rejects the frame, and so ends the cycle (R105, R218). -/
abbrev EndsCycle (c : RespCode) : Prop := c = .invalidHeader ∨ c = .checksumMismatch

/-- From `s` to `t` a command is answered `OK`. -/
def Completed (s t : State) : Prop := ∃ d, t.responses = s.responses ++ [⟨.ok, d⟩]

/-- From `s` to `t` a command is rejected with the code `c`, as R218 frames it. -/
structure Rejected (s t : State) (c : RespCode) : Prop where
  responses : t.responses = s.responses ++ [⟨c, 0⟩]
  act : t.act = s.act
  lastTrig : t.lastTrig = s.lastTrig
  events : t.events = s.events
  ended : EndsCycle c → t.stage = .idle ∧ t.cyc = Cycle.empty
  kept : ¬ EndsCycle c → t.stage = s.stage ∧ t.cyc = s.cyc

theorem rejected_reject (s : State) {c : RespCode} (hc : ¬ EndsCycle c) : Rejected s (s.reject c) c :=
  ⟨rfl, rfl, rfl, rfl, fun h => absurd h hc, fun _ => ⟨rfl, rfl⟩⟩

theorem rejected_answer (s : State) {c : RespCode} (hc : ¬ EndsCycle c) : Rejected s (s.answer c 0) c :=
  ⟨rfl, rfl, rfl, rfl, fun h => absurd h hc, fun _ => ⟨rfl, rfl⟩⟩

theorem rejected_rejectCycle (s : State) {c : RespCode} (hc : EndsCycle c) : Rejected s (s.rejectCycle c) c :=
  ⟨rfl, rfl, rfl, rfl, fun _ => ⟨rfl, rfl⟩, fun h => absurd hc h⟩

/-- Inputs consumed before a rejection are no part of its frame. -/
theorem Rejected.of_env {s t : State} {e : Env} {c : RespCode} (h : Rejected { s with env := e } t c) :
    Rejected s t c := { h with }

theorem sensorPending_writes_env (s : State) : ∃ e, (sensorPending s).2 = { s with env := e } := by
  unfold sensorPending
  split <;> exact ⟨_, rfl⟩

theorem sensorRead_writes_env (s : State) : ∃ e, (sensorRead s).2 = { s with env := e } := by
  unfold sensorRead
  split <;> exact ⟨_, rfl⟩

theorem completed_alert {s u : State} (hr : u.responses = s.responses) (occ : Bool) (now : Long) :
    Completed s (alert u occ now) := by
  rcases alert_cases u occ now with ⟨-, -, h⟩ | ⟨-, h⟩
  · exact ⟨1, by simp [h, hr]⟩
  · exact ⟨0, by simp [h, hr]⟩

/-- An access command answers `OK`, or `BadIndex` or `BadStage` with no data (R217). -/
theorem completed_or_rejected_answer (s : State) {c : RespCode} {d : Long}
    (h : c ≠ .ok → d = 0 ∧ (c = .badIndex ∨ c = .badStage)) :
    Completed s (s.answer c d) ∨ ∃ e, Rejected s (s.answer c d) e := by
  by_cases hc : c = .ok
  · exact .inl ⟨d, by rw [hc]; rfl⟩
  · obtain ⟨rfl, rfl | rfl⟩ := h hc
    · exact .inr ⟨_, rejected_answer s (by decide)⟩
    · exact .inr ⟨_, rejected_answer s (by decide)⟩

/-- Whatever command runs, in whatever stage, it completes or it is rejected as R218 frames it. -/
theorem exec_next_completed_or_rejected {i : Instr} {s t : State} (h : exec i s = .next t) :
    Completed s t ∨ ∃ c, Rejected s t c := by
  have badStage : Rejected s (s.reject .badStage) .badStage := rejected_reject s (by decide)
  cases i with
  | acq =>
    obtain ⟨_, hpending⟩ := sensorPending_writes_env s
    obtain ⟨_, hread⟩ := sensorRead_writes_env (sensorPending s).2
    rcases exec_acq_next h with ⟨-, rfl⟩ | ⟨-, -, rfl⟩ | ⟨-, rfl⟩ | ⟨-, -, rfl⟩
    · exact .inr ⟨_, badStage⟩
    · rw [hpending]
      exact .inr ⟨.noData, (rejected_reject _ (by decide)).of_env⟩
    · rw [hread, hpending]
      exact .inr ⟨.incompleteFrame, (rejected_reject _ (by decide)).of_env⟩
    · exact .inl ⟨0, by simp⟩
  | val =>
    rcases exec_val_next h with ⟨-, rfl⟩ | ⟨-, rfl | rfl⟩ | ⟨-, f, -, -, -, rfl⟩
    · exact .inr ⟨_, badStage⟩
    · exact .inr ⟨_, rejected_rejectCycle s (.inl rfl)⟩
    · exact .inr ⟨_, rejected_rejectCycle s (.inr rfl)⟩
    · exact .inl ⟨0, rfl⟩
  | dec =>
    rcases exec_dec_next h with ⟨-, rfl⟩ | ⟨-, f, -, rfl⟩
    · exact .inr ⟨_, badStage⟩
    · exact .inl ⟨0, rfl⟩
  | ana thr =>
    rcases exec_ana_next h with ⟨-, rfl⟩ | ⟨-, g, -, rfl⟩
    · exact .inr ⟨_, badStage⟩
    · exact .inl ⟨0, rfl⟩
  | alr =>
    rcases exec_alr_next h with ⟨-, rfl⟩ | ⟨-, occ, -, -, -, rfl⟩
    · exact .inr ⟨_, badStage⟩
    · exact .inl (completed_alert (clockNow_responses s) _ _)
  | ren =>
    rcases exec_ren_next h with ⟨-, rfl⟩ | ⟨-, g, a, d, m, -, -, -, -, rfl⟩
    · exact .inr ⟨_, badStage⟩
    · exact .inl ⟨0, rfl⟩
  | prs =>
    rcases exec_prs_next h with ⟨-, rfl⟩ | ⟨-, ct, hv, -, -, rfl⟩
    · exact .inr ⟨_, badStage⟩
    · exact .inl ⟨0, rfl⟩
  | endCycle => obtain rfl := exec_end_next h; exact .inl ⟨0, rfl⟩
  | rdr n => obtain ⟨c, d, rfl, hc⟩ := exec_rdr_next h; exact completed_or_rejected_answer s hc
  | rdt k => obtain ⟨c, d, rfl, hc⟩ := exec_rdt_next h; exact completed_or_rejected_answer s hc

/-- A step on an offered word completes or is a rejection; the word consumed is no part of the frame. -/
theorem step_next_completed_or_rejected {s t : State} {w : Word} {rest : List Offer}
    (ho : s.env.offered = .command w :: rest) (h : step s = .next t) : Completed s t ∨ ∃ c, Rejected s t c := by
  match hd : decode w with
  | .illegal why =>
    obtain rfl := Host.Outcome.next.inj ((step_of_illegal ho hd).symm.trans h)
    exact .inr ⟨.illegalCommand, (rejected_reject _ (by decide)).of_env⟩
  | .command i =>
    rcases exec_next_completed_or_rejected ((step_of_command ho hd).symm.trans h) with ⟨d, hok⟩ | ⟨c, hrej⟩
    · exact .inl ⟨d, hok⟩
    · exact .inr ⟨c, hrej.of_env⟩

theorem response_unique {s t : State} {r r' : Response} (h : t.responses = s.responses ++ [r])
    (h' : t.responses = s.responses ++ [r']) : r = r' :=
  List.singleton_injective (List.append_cancel_left (h.symm.trans h'))

/-- Settles O53: the one response of the step tells a rejection from a completion, and its code the two kinds of
rejection. -/
theorem rejectionFrame : Obligations.RejectionFrame := by
  intro s t w rest r ho h hr hne
  rcases step_next_completed_or_rejected ho h with ⟨d, hok⟩ | ⟨c, hrej⟩
  · obtain rfl := response_unique hr hok
    exact absurd rfl hne
  · obtain rfl := response_unique hr hrej.responses
    exact ⟨rfl, hrej.act, hrej.lastTrig, hrej.events, hrej.ended,
      fun hheader hsum => hrej.kept (not_or.2 ⟨hheader, hsum⟩)⟩

/-! ## Every command answers (R205, R219) -/

/-- A guarded command answers a next state if it does so in the stage it needs: in any other it rejects. -/
theorem guardStage_answers {need : Stage} {s : State} {body : Host.Outcome State Fault Refusal}
    (h : s.stage = need → ∃ t, guardStage need s body = .next t) : ∃ t, guardStage need s body = .next t := by
  by_cases hs : s.stage = need
  · exact h hs
  · exact ⟨_, guardStage_block hs body⟩

/-- Under a dutiful environment a read has at most 1544 bytes, listed or free (R10). -/
theorem EnvDuty.length_sensorRead {s : State} (h : EnvDuty s) :
    (sensorRead (sensorPending s).2).1.length ≤ 1544 := by
  rcases sensorRead_env (sensorPending s).2 with ⟨bs, rest, hlisted, hbs, -⟩ | ⟨-, hfree, -⟩
  · rw [sensorPending_reads] at hlisted
    rw [hbs]
    exact h.readBound bs (hlisted ▸ List.mem_cons_self)
  · rw [hfree]
    exact List.length_take_le _ _

/-- Under a dutiful environment the clock's answer keeps the duty, listed or free (R11). -/
theorem EnvDuty.clockNow_ge {s : State} (h : EnvDuty s) :
    s.lastTrig ≤ (clockNow s).1 ∧ s.env.clockGiven.headD 0 ≤ (clockNow s).1 := by
  rcases clockNow_env s with ⟨t, ts, hlisted, ht, -⟩ | ⟨-, hfree, -⟩
  · rw [ht]
    exact h.clockAhead t (hlisted ▸ List.mem_cons_self)
  · rw [hfree]
    exact clockRefusal_eq_none.1 (clockRefusal_free s _)

/-- What the environment owes does not depend on what the host offers. -/
theorem EnvDuty.afterOffer {s : State} (h : EnvDuty s) (rest : List Offer) :
    EnvDuty { s with env := { s.env with offered := rest } } :=
  ⟨h.clockSorted, h.clockAhead, h.readBound⟩

/-- An open window gives the buffer's elements. -/
theorem bufferWindow.exists_contents {w n : Nat} {sp : Space w} {on : Prop} (h : bufferWindow n sp on) (hon : on) :
    ∃ vs, Space.contents n sp = some vs := Option.isSome_iff_exists.1 (h.1 hon)

/-- An open window gives the register's value. -/
theorem regWindow.exists_value {α : Type} {reg : Option α} {on : Prop} (h : regWindow reg on) (hon : on) :
    ∃ v, reg = some v := Option.isSome_iff_exists.1 (h.2 hon)

section
variable {s : State}

theorem exec_acq_answers (h : EnvDuty s) : ∃ t, exec .acq s = .next t :=
  guardStage_answers fun hs => ⟨_, exec_acq_of_idle hs (readTooLong_eq_false h.length_sensorRead)⟩

theorem exec_val_answers (h : Inv s) : ∃ t, exec .val s = .next t :=
  guardStage_answers fun hs =>
    have ⟨_, hfb⟩ := (h.windowsAt hs).fb.exists_contents (by decide)
    ⟨_, exec_val_of_frame hs hfb⟩

theorem exec_dec_answers (h : Inv s) : ∃ t, exec .dec s = .next t :=
  guardStage_answers fun hs =>
    have ⟨_, hfb⟩ := (h.windowsAt hs).fb.exists_contents (by decide)
    ⟨_, exec_dec_of_frame hs hfb⟩

theorem exec_ana_answers (h : Inv s) (thr : Half) : ∃ t, exec (.ana thr) s = .next t :=
  guardStage_answers fun hs =>
    have ⟨_, htg⟩ := (h.windowsAt hs).grid.tg.exists_contents (by decide)
    ⟨_, exec_ana_of_grid thr hs htg⟩

theorem exec_alr_answers (h : Inv s) (hduty : EnvDuty s) : ∃ t, exec .alr s = .next t :=
  guardStage_answers fun hs =>
    have ⟨_, hocc⟩ := (h.windowsAt hs).detection.occ.exists_value (by decide)
    have ⟨hlast, hgiven⟩ := hduty.clockNow_ge
    ⟨_, exec_alr_of_duty hs rfl hlast hgiven hocc⟩

/-- A recorded hottest pixel lies inside the grid: its row is below 24 (R45 (c)), its column has five bits. -/
theorem Inv.exists_hottest (h : Inv s) (hs : s.stage = .alerted) {grid : List Half}
    (htg : Space.contents 768 s.cyc.tg = some grid) : ∃ hot, hottest s.cyc = some hot := by
  have hw := (h.windowsAt hs).detection
  obtain ⟨flag, hflag⟩ := hw.hotv.exists_value (by decide)
  cases flag with
  | false => exact ⟨_, hottest_of_none hflag⟩
  | true =>
    obtain ⟨x, hx⟩ := hw.hotx.exists_value ⟨by decide, hflag⟩
    obtain ⟨y, hy⟩ := hw.hoty.exists_value ⟨by decide, hflag⟩
    have hrow : y.toNat < 24 := h.detection.row y hy
    have hlen : grid.length = 768 := (Space.contents_eq_some htg).2
    have hpixel : 32 * y.toNat + x.toNat < grid.length := by omega
    exact ⟨_, hottest_of_some htg hflag hx hy (List.getElem?_eq_getElem hpixel)⟩

/-- The arithmetic of `REN` is in range: no sample of the grid is below `TMIN` (R45 (c), R139). -/
theorem Inv.tmin_le_of_mem (h : Inv s) {grid : List Half} {tmin v : Half}
    (htg : Space.contents 768 s.cyc.tg = some grid) (htmin : s.cyc.tmin = some tmin) (hv : v ∈ grid) :
    tmin.toNat ≤ v.toNat := by
  obtain ⟨i, hi⟩ := List.mem_iff_getElem?.1 hv
  refine h.detection.least tmin i v htmin ?_
  rw [(Space.contents_eq_some htg).1, Space.read_fill, hi]

theorem exec_ren_answers (h : Inv s) : ∃ t, exec .ren s = .next t := by
  refine guardStage_answers fun hs => ?_
  have hw := h.windowsAt hs
  obtain ⟨grid, htg⟩ := hw.grid.tg.exists_contents (by decide)
  obtain ⟨tmin, htmin⟩ := hw.detection.tmin.exists_value (by decide)
  obtain ⟨span, hspan⟩ := hw.detection.span.exists_value (by decide)
  obtain ⟨hot, hhot⟩ := h.exists_hottest hs htg
  exact ⟨_, exec_ren_of_inputs hs htg htmin hspan hhot (h.detection.span span hspan).1 fun _ =>
    h.tmin_le_of_mem htg htmin⟩

theorem exec_prs_answers (h : Inv s) : ∃ t, exec .prs s = .next t :=
  guardStage_answers fun hs =>
    have hw := (h.windowsAt hs).render
    have ⟨_, hct⟩ := hw.ovCt.exists_value (by decide)
    have ⟨_, hhv⟩ := hw.ovHv.exists_value (by decide)
    ⟨_, exec_prs_of_image hs hct hhv (hw.disp.1 (by decide))⟩

/-- Whatever command runs, in whatever stage, it answers a next state. -/
theorem exec_answers (h : Inv s) (hduty : EnvDuty s) (i : Instr) : ∃ t, exec i s = .next t := by
  cases i with
  | acq => exact exec_acq_answers hduty
  | val => exact exec_val_answers h
  | dec => exact exec_dec_answers h
  | ana thr => exact exec_ana_answers h thr
  | alr => exact exec_alr_answers h hduty
  | ren => exact exec_ren_answers h
  | prs => exact exec_prs_answers h
  | endCycle => exact ⟨_, exec_endCycle s⟩
  | rdr n => exact ⟨_, rfl⟩
  | rdt k => exact ⟨_, rfl⟩

end

/-- Settles O59: waiting, reset and an illegal word have a next state, and every command answers one. -/
theorem neverStops : Obligations.NeverStops := by
  intro s hinv hduty
  rcases step_cases s with ⟨-, hs⟩ | ⟨rest, -, hs⟩ | ⟨w, rest, why, -, -, hs⟩ | ⟨w, rest, i, -, -, hs⟩
  · exact ⟨_, hs⟩
  · exact ⟨_, hs⟩
  · exact ⟨_, hs⟩
  · rw [hs]
    exact exec_answers (hinv.afterOffer rest) (hduty.afterOffer rest) i

end Sys2Proof.Machine

/-! SUPPORT. Proofs of the statements about reset and the hazards (70_reset_and_hazards.md): waiting and the offered reset
(R216, R230), what no longer can be read after `END` (R243), and the duties of the environment over every step (R236). -/

namespace Sys2Proof.Machine

/-! ## Waiting and reset (R216, R230, R231) -/

theorem step_of_nothing_offered {s : State} (ho : s.env.offered = []) : step s = .next s := by
  simp only [step, takeOffer, ho]

theorem step_of_reset {s : State} {rest : List Offer} (ho : s.env.offered = .reset :: rest) :
    step s = .next (State.applyReset { s with env := { s.env with offered := rest } }) := by
  simp only [step, takeOffer, ho]

/-- Settles O10: the two offers that are no word; what reset leaves is table T43 as a record. -/
theorem waitingAndReset : Obligations.WaitingAndReset :=
  fun _ => ⟨step_of_nothing_offered, fun _ => step_of_reset⟩

/-! ## The results after `END` (R243) -/

/-- What the four registers outside the cycle hold, as natural numbers (T46, numbers 0 to 3). -/
def State.persistentNumbers (s : State) : List Nat :=
  [s.stage.code.toNat, s.status.toNat, s.act.toNat, s.lastTrig.toNat]

/-- With the cycle-local state empty, the other fourteen registers hold nothing. -/
theorem regNumbers_of_empty {s : State} (h : s.cyc = Cycle.empty) :
    s.regNumbers = s.persistentNumbers.map some ++ List.replicate 14 none := by
  rw [State.regNumbers, h]
  rfl

section
variable {s : State} {n : Half}

theorem exec_rdr_of_cycleRegister (h : s.cyc = Cycle.empty) (hlow : 4 ≤ n.toNat) (hhigh : n.toNat ≤ 17) :
    exec (.rdr n) s = .next (s.answer .badStage 0) := by
  have hnone : s.regNumbers[n.toNat]? = some none := by
    rw [regNumbers_of_empty h, List.getElem?_append_right hlow]
    exact List.getElem?_replicate_of_lt (show n.toNat - 4 < 14 by omega)
  obtain ⟨r, hr, hread⟩ := readReg_of_regNumbers hnone
  exact exec_rdr_of_none hr hread

theorem exec_rdr_of_persistentRegister (h : s.cyc = Cycle.empty) (hn : n.toNat ≤ 3) :
    ∃ v, exec (.rdr n) s = .next (s.answer .ok v) := by
  have hlt : n.toNat < s.persistentNumbers.length := Nat.lt_succ_of_le hn
  have hsome : s.regNumbers[n.toNat]? = some (some s.persistentNumbers[n.toNat]) := by
    rw [regNumbers_of_empty h, List.getElem?_append_left (by simpa using hlt), List.getElem?_map,
      List.getElem?_eq_getElem hlt, Option.map_some]
  obtain ⟨r, hr, hread⟩ := readReg_of_regNumbers hsome
  exact ⟨_, exec_rdr_of_value hr hread⟩

end

/-- Settles O48: `END` leaves the cycle-local state empty and the stage before that of the grid. -/
theorem resultsVanishAtEnd : Obligations.ResultsVanishAtEnd := by
  intro s t h
  obtain rfl := exec_end_next h
  exact ⟨fun _ => exec_rdr_of_cycleRegister rfl, fun _ => exec_rdr_of_persistentRegister rfl,
    fun _ hi => exec_rdt_of_early hi (show Stage.idle.code.toNat < 3 by decide)⟩

/-! ## A property that every step keeps -/

/-- A step keeps a property that taking an offer, reset, the answer to an illegal word and every command keep. -/
theorem step_next_keeps {P : State → Prop} {s t : State}
    (offer : ∀ rest, P s → P { s with env := { s.env with offered := rest } })
    (reset : ∀ u, P u → P u.applyReset)
    (illegal : ∀ u, P u → P u.illegalWord)
    (command : ∀ u v i, P u → exec i u = .next v → P v)
    (hP : P s) (h : step s = .next t) : P t := by
  rcases step_cases s with ⟨-, hs⟩ | ⟨rest, -, hs⟩ | ⟨w, rest, why, -, -, hs⟩ | ⟨w, rest, i, -, -, hs⟩
  · obtain rfl := Host.Outcome.next.inj (hs.symm.trans h)
    exact hP
  · obtain rfl := Host.Outcome.next.inj (hs.symm.trans h)
    exact reset _ (offer rest hP)
  · obtain rfl := Host.Outcome.next.inj (hs.symm.trans h)
    exact illegal _ (offer rest hP)
  · exact command _ _ i (offer rest hP) (hs.symm.trans h)

/-! ## The duties of the environment (R236) -/

/-- The duties pass to a state whose clock answers are the same, whose reads are among those listed before, and whose
`LAST_TRIG` is not later. -/
theorem EnvDuty.mono {s t : State} (h : EnvDuty s) (hclock : t.env.clock = s.env.clock)
    (hgiven : t.env.clockGiven = s.env.clockGiven) (hreads : t.env.reads ⊆ s.env.reads)
    (hlast : t.lastTrig ≤ s.lastTrig) : EnvDuty t where
  clockSorted := hclock ▸ h.clockSorted
  clockAhead := by
    rw [hclock, hgiven]
    exact fun u hu => ⟨BitVec.le_trans hlast (h.clockAhead u hu).1, (h.clockAhead u hu).2⟩
  readBound := fun bs hbs => h.readBound bs (hreads hbs)

theorem EnvDuty.of_eq {s t : State} (h : EnvDuty s) (henv : t.env = s.env) (hlast : t.lastTrig = s.lastTrig) :
    EnvDuty t := h.mono (by rw [henv]) (by rw [henv]) (by simp [henv]) (by simp [hlast])

theorem EnvDuty.afterSensorPending {s : State} (h : EnvDuty s) : EnvDuty (sensorPending s).2 := by
  rcases sensorPending_env s with ⟨p, ps, -, -, henv⟩ | ⟨-, -, henv⟩ <;>
    exact h.mono (by rw [henv]) (by rw [henv]) (by simp) (by simp)

theorem EnvDuty.afterSensorRead {s : State} (h : EnvDuty s) : EnvDuty (sensorRead s).2 := by
  rcases sensorRead_env s with ⟨bs, rest, hlisted, -, henv⟩ | ⟨-, -, henv⟩
  · exact h.mono (by rw [henv]) (by rw [henv]) (by simp [henv, hlisted]) (by simp)
  · exact h.mono (by rw [henv]) (by rw [henv]) (by simp [henv]) (by simp)

/-- The clock's answer is not above those still to come, which stay in order. -/
theorem EnvDuty.clock_afterClockNow {s : State} (h : EnvDuty s) :
    (∀ u ∈ (clockNow s).2.env.clock, (clockNow s).1 ≤ u) ∧ (clockNow s).2.env.clock.Pairwise (· ≤ ·) := by
  rcases clockNow_env s with ⟨t, ts, hlisted, ht, henv⟩ | ⟨hnone, -, henv⟩
  · rw [henv, ht]
    exact List.pairwise_cons.1 (hlisted ▸ h.clockSorted)
  · rw [henv, hnone]
    exact ⟨nofun, List.Pairwise.nil⟩

@[simp] theorem clockNow_reads (s : State) : (clockNow s).2.env.reads = s.env.reads := by
  unfold clockNow; split <;> rfl

/-- After `ALR` neither `LAST_TRIG` nor the last answer given is above the sample, which no answer to come is below. -/
theorem EnvDuty.afterAlert {s : State} (h : EnvDuty s) (occ : Bool) :
    EnvDuty (alert (clockNow s).2 occ (clockNow s).1) := by
  obtain ⟨hahead, hsorted⟩ := h.clock_afterClockNow
  have hlast : (alert (clockNow s).2 occ (clockNow s).1).lastTrig ≤ (clockNow s).1 := by
    rcases alert_lastTrig (clockNow s).2 occ (clockNow s).1 with hkept | htaken
    · rw [hkept, clockNow_lastTrig]
      exact h.clockNow_ge.1
    · rw [htaken]
      exact BitVec.le_refl _
  constructor
  case clockSorted => rwa [alert_env]
  case clockAhead =>
    rw [alert_env, clockNow_clockGiven]
    exact fun u hu => ⟨BitVec.le_trans hlast (hahead u hu), hahead u hu⟩
  case readBound =>
    rw [alert_env, clockNow_reads]
    exact h.readBound

/-- Whatever command runs, in whatever stage, the environment's duties stay. -/
theorem exec_next_envDuty {i : Instr} {s t : State} (hduty : EnvDuty s) (h : exec i s = .next t) : EnvDuty t := by
  cases i with
  | acq =>
    rcases exec_acq_next h with ⟨-, rfl⟩ | ⟨-, -, rfl⟩ | ⟨-, rfl⟩ | ⟨-, -, rfl⟩
    · exact hduty.of_eq rfl rfl
    · exact hduty.afterSensorPending.of_eq rfl rfl
    · exact hduty.afterSensorPending.afterSensorRead.of_eq rfl rfl
    · exact hduty.afterSensorPending.afterSensorRead.of_eq rfl rfl
  | val => rcases exec_val_next h with ⟨-, rfl⟩ | ⟨-, rfl | rfl⟩ | ⟨-, f, -, -, -, rfl⟩ <;> exact hduty.of_eq rfl rfl
  | dec => rcases exec_dec_next h with ⟨-, rfl⟩ | ⟨-, f, -, rfl⟩ <;> exact hduty.of_eq rfl rfl
  | ana thr => rcases exec_ana_next h with ⟨-, rfl⟩ | ⟨-, g, -, rfl⟩ <;> exact hduty.of_eq rfl rfl
  | alr =>
    rcases exec_alr_next h with ⟨-, rfl⟩ | ⟨-, occ, -, -, -, rfl⟩
    · exact hduty.of_eq rfl rfl
    · exact hduty.afterAlert occ
  | ren => rcases exec_ren_next h with ⟨-, rfl⟩ | ⟨-, g, a, d, m, -, -, -, -, rfl⟩ <;> exact hduty.of_eq rfl rfl
  | prs => rcases exec_prs_next h with ⟨-, rfl⟩ | ⟨-, ct, hv, -, -, rfl⟩ <;> exact hduty.of_eq rfl rfl
  | endCycle => obtain rfl := exec_end_next h; exact hduty.of_eq rfl rfl
  | rdr n => obtain ⟨c, d, rfl, -⟩ := exec_rdr_next h; exact hduty.of_eq rfl rfl
  | rdt k => obtain ⟨c, d, rfl, -⟩ := exec_rdt_next h; exact hduty.of_eq rfl rfl

/-- Settles O57: reset puts `LAST_TRIG` to 0, below every answer; of the commands only `ACQ` and `ALR` use inputs. -/
theorem environmentDutyKept : Obligations.EnvironmentDutyKept := fun _ _ =>
  step_next_keeps (fun rest h => h.afterOffer rest)
    (fun _ h => h.mono rfl rfl (List.Subset.refl _) (Nat.zero_le _))
    (fun _ h => h.of_eq rfl rfl)
    (fun _ _ _ => exec_next_envDuty)

end Sys2Proof.Machine

/-! SUPPORT. Proofs of the statements about the environment's answers (00_scope.md R10, R11) and about `ALR` on a clock
that runs back (43_alert.md; U6, D12). -/

namespace Sys2Proof.Machine

section
variable {s : State}

/-! ## A listed answer is given and used up -/

theorem sensorPending_of_listed {p : Bool} {ps : List Bool} (h : s.env.pending = p :: ps) :
    sensorPending s = (p, { s with env := { s.env with pending := ps } }) := by
  simp only [sensorPending, h]

theorem sensorRead_of_listed {bs : List Byte} {rest : List (List Byte)} (h : s.env.reads = bs :: rest) :
    sensorRead s = (bs, { s with env := { s.env with reads := rest } }) := by
  simp only [sensorRead, h]

theorem clockNow_of_listed {t : Long} {ts : List Long} (h : s.env.clock = t :: ts) :
    clockNow s = (t, { s with env := { s.env with clock := ts, clockGiven := t :: s.env.clockGiven } }) := by
  simp only [clockNow, h, State.gaveClock]

/-! ## A free answer keeps the contract's bounds -/

theorem sensorPending_of_free (h : s.env.pending = []) :
    ∃ p, sensorPending s = (p, { s with env := { s.env with freeIdx := s.env.freeIdx + 1 } }) :=
  ⟨Config.freePending s.env.freeIdx, by simp only [sensorPending, h]⟩

theorem sensorRead_of_free (h : s.env.reads = []) :
    ∃ bs, bs.length ≤ 1544 ∧ sensorRead s = (bs, { s with env := { s.env with freeIdx := s.env.freeIdx + 1 } }) :=
  ⟨(Config.freeRead s.env.freeIdx).take 1544, List.length_take_le _ _, by simp only [sensorRead, h]⟩

theorem clockNow_of_free (h : s.env.clock = []) :
    ∃ t, s.lastTrig ≤ t ∧ s.env.clockGiven.headD 0 ≤ t ∧
      clockNow s =
        (t, { s with env := { s.env with freeIdx := s.env.freeIdx + 1, clockGiven := t :: s.env.clockGiven } }) :=
  have ⟨hlast, hgiven⟩ := clockRefusal_eq_none.1 (clockRefusal_free s (Config.freeClock s.env.freeIdx))
  ⟨_, hlast, hgiven, by simp only [clockNow, h, State.gaveClock]⟩

end

/-- Settles O12: each of the three primitives on a listed answer, then each on a free one. -/
theorem environmentAnswers : Obligations.EnvironmentAnswers := fun _ =>
  ⟨fun _ _ => sensorPending_of_listed, fun _ _ => sensorRead_of_listed, fun _ _ => clockNow_of_listed,
    sensorPending_of_free, sensorRead_of_free, clockNow_of_free⟩

/-! ## A clock that runs back (U6, D12) -/

theorem clockRefusal_of_lt_given {s : State} {t : Long} (hlast : s.lastTrig ≤ t)
    (hgiven : t < s.env.clockGiven.headD 0) : clockRefusal s t = some .clockDecreased :=
  (if_neg (BitVec.not_lt.2 hlast)).trans (if_pos hgiven)

/-- Settles O36: an answer not below `LAST_TRIG` but below the last one given breaks the duty under its own name. -/
theorem alrRefusesDecreasingClock : Obligations.AlrRefusesDecreasingClock :=
  fun _ _ _ _ hs hocc hclock hlast hgiven =>
    exec_alr_of_clockRefusal hs hocc hclock (clockRefusal_of_lt_given hlast hgiven)

end Sys2Proof.Machine

/-! SUPPORT. Proofs of the remaining statements about the encoding (30_encoding.md): the match and the mask of every row of
table T82, and the number of command words. -/

namespace Sys2Proof

/-! ## A row's match and mask (T82) -/

/-- The words of a command are its encoding alone. -/
theorem decode_eq_command_iff {w : Word} {i : Instr} : decode w = .command i ↔ w = encode i :=
  ⟨eq_encode_of_decode, fun h => h ▸ decode_encode i⟩

/-- The mask of the opcode and the reserved bits, and the mask of the operand, together see every bit. -/
theorem eq_iff_masks {v w : Word} :
    w = v ↔ w &&& 0xFFFF0000#32 = v &&& 0xFFFF0000#32 ∧ w &&& 0x0000FFFF#32 = v &&& 0x0000FFFF#32 := by
  refine ⟨fun h => h ▸ ⟨rfl, rfl⟩, fun ⟨hhigh, hlow⟩ => ?_⟩
  have parts (u : Word) : (u &&& 0xFFFF0000#32) ||| (u &&& 0x0000FFFF#32) = u := by
    rw [← BitVec.and_or_distrib_left]
    exact BitVec.and_allOnes
  rw [← parts w, hhigh, hlow, parts]

theorem encode_and_highMask (i : Instr) : encode i &&& 0xFFFF0000#32 = i.opcode ++ (0 : Byte) ++ (0 : Half) :=
  calc encode i &&& 0xFFFF0000#32
      = (i.opcode ++ (0 : Byte) &&& BitVec.allOnes 16) ++ (i.imm &&& 0) :=
        BitVec.and_append (x₁ := i.opcode ++ (0 : Byte)) (x₂ := BitVec.allOnes 16) (y₁ := i.imm) (y₂ := 0)
    _ = _ := by rw [BitVec.and_allOnes]; simp

theorem encode_and_lowMask (i : Instr) : encode i &&& 0x0000FFFF#32 = i.imm.setWidth 32 :=
  calc encode i &&& 0x0000FFFF#32
      = (i.opcode ++ (0 : Byte) &&& 0) ++ (i.imm &&& BitVec.allOnes 16) :=
        BitVec.and_append (x₁ := i.opcode ++ (0 : Byte)) (x₂ := 0) (y₁ := i.imm) (y₂ := BitVec.allOnes 16)
    _ = (0 : Half) ++ i.imm := by rw [BitVec.and_allOnes]; simp
    _ = _ := (BitVec.setWidth_eq_append (by decide)).symm

/-- A word is a command's exactly when its high half is the opcode over 0 and its low half is the operand. -/
theorem decode_eq_command_iff_masks {w : Word} {i : Instr} :
    decode w = .command i ↔
      w &&& 0xFFFF0000#32 = i.opcode ++ (0 : Byte) ++ (0 : Half) ∧ w &&& 0x0000FFFF#32 = i.imm.setWidth 32 := by
  rw [decode_eq_command_iff, eq_iff_masks, encode_and_highMask, encode_and_lowMask]

/-- Settles O4: a format Z row's match is its command's whole word; a format I row's is the word without its operand. -/
theorem decodeAgreesWithMasks : Obligations.DecodeAgreesWithMasks := by
  intro w
  refine ⟨fun p hp => ?formatZ, fun p hp imm => ?formatI⟩
  case formatZ =>
    have hword : encode p.2 = p.1 := by
      simp only [List.mem_cons, List.not_mem_nil, or_false] at hp
      rcases hp with rfl | rfl | rfl | rfl | rfl | rfl | rfl <;> rfl
    have hmask : w &&& 0xFFFFFFFF#32 = w := BitVec.and_allOnes
    rw [decode_eq_command_iff, hword, hmask]
  case formatI =>
    have hrow : (p.2 imm).opcode ++ (0 : Byte) ++ (0 : Half) = p.1 ∧ (p.2 imm).imm = imm := by
      simp only [List.mem_cons, List.not_mem_nil, or_false] at hp
      rcases hp with rfl | rfl | rfl <;> exact ⟨by simp only [Instr.opcode]; rfl, rfl⟩
    rw [decode_eq_command_iff_masks, hrow.1, hrow.2]

/-! ## The number of command words (R85) -/

theorem encode_injective : Function.Injective encode := fun i j h =>
  Decoded.command.inj ((decode_encode i).symm.trans ((congrArg decode h).trans (decode_encode j)))

/-- Every command is of format Z, or of format I with its immediate (T82). -/
def Instr.ofFormat : OpZ ⊕ OpI × Half → Instr
  | .inl op => op.instr
  | .inr (op, imm) => op.instr imm

/-- The format a command is of, with its mnemonic and its immediate (T82). -/
def Instr.format : Instr → OpZ ⊕ OpI × Half
  | .acq => .inl .acq
  | .val => .inl .val
  | .dec => .inl .dec
  | .ana thr => .inr (.ana, thr)
  | .alr => .inl .alr
  | .ren => .inl .ren
  | .prs => .inl .prs
  | .endCycle => .inl .endCycle
  | .rdr n => .inr (.rdr, n)
  | .rdt i => .inr (.rdt, i)

theorem Instr.ofFormat_format (i : Instr) : Instr.ofFormat i.format = i := by
  cases i <;> rfl

theorem Instr.format_ofFormat (f : OpZ ⊕ OpI × Half) : (Instr.ofFormat f).format = f := by
  rcases f with op | ⟨op, imm⟩ <;> cases op <;> rfl

/-- A type has as many elements as a list that names each of them once. -/
theorem natCard_of_complete_list {α : Type} [DecidableEq α] {l : List α} (hnodup : l.Nodup) (h : ∀ a, a ∈ l) :
    Nat.card α = l.length := Nat.card_eq_of_equiv_fin (hnodup.getEquivOfForallMemList l h).symm

theorem natCard_opZ : Nat.card OpZ = 7 :=
  natCard_of_complete_list (l := [.acq, .val, .dec, .alr, .ren, .prs, .endCycle]) (by decide)
    (by intro op; cases op <;> decide)

theorem natCard_opI : Nat.card OpI = 3 :=
  natCard_of_complete_list (l := [.ana, .rdr, .rdt]) (by decide) (by intro op; cases op <;> decide)

theorem natCard_half : Nat.card Half = 65536 := Nat.card_eq_of_equiv_fin BitVec.equivFin.toEquiv

theorem natCard_instr : Nat.card Instr = 7 + 3 * 65536 := by
  have : Finite OpZ := Nat.finite_of_card_ne_zero (by rw [natCard_opZ]; decide)
  have : Finite (OpI × Half) :=
    Nat.finite_of_card_ne_zero (by rw [Nat.card_prod, natCard_opI, natCard_half]; decide)
  calc Nat.card Instr
      = Nat.card (OpZ ⊕ OpI × Half) :=
        Nat.card_congr ⟨Instr.format, Instr.ofFormat, Instr.ofFormat_format, Instr.format_ofFormat⟩
    _ = 7 + 3 * 65536 := by rw [Nat.card_sum, Nat.card_prod, natCard_opZ, natCard_opI, natCard_half]

/-- Settles O5: the command words are the encodings, one for each command. -/
theorem commandWordCount : Obligations.CommandWordCount := by
  have hrange : {w : Word | ∃ i, decode w = .command i} = Set.range encode := by
    ext w
    exact exists_congr fun i => decode_eq_command_iff.trans eq_comm
  unfold Obligations.CommandWordCount
  rw [hrange, Set.ncard_range_of_injective encode_injective, natCard_instr]

end Sys2Proof

/-! SUPPORT. Proof of the statement about the address spaces (20_memory.md R50): every step keeps the canonical form. -/

namespace Sys2Proof.Machine

/-- The canonical form depends on the cycle-local state and the display's size. -/
theorem Canonical.of_eq {s t : State} (h : Canonical s) (cyc : t.cyc = s.cyc) (cfg : t.cfg = s.cfg) : Canonical t := by
  cases s; cases t
  obtain rfl := cyc
  obtain rfl := cfg
  exact { h with }

/-- A buffer of `n` elements written by a loop is in canonical form, with no index outside its range. -/
theorem canonical_fill {w n : Nat} {vs : List (BitVec w)} (h : vs.length = n) :
    Space.wf (Space.fill vs) ∧ ∀ c ∈ Space.fill vs, c.1 < n :=
  ⟨Space.wf_fill vs, fun _ hc => (Space.index_fill_lt hc).trans_eq h⟩

theorem Canonical.afterLoad {s : State} (h : Canonical s) {bs : List Byte} (hlen : bs.length = 1544) :
    Canonical (State.respond { s with stage := .loaded, cyc := { s.cyc with fb := Space.fill bs } } .ok 0) :=
  { h with fb := memory_wf_fill hlen }

theorem Canonical.afterDecode {s : State} (h : Canonical s) {frame : List Byte} (hlen : frame.length = 1544) :
    Canonical (decodeFrame s frame) :=
  { h with tg := canonical_fill (length_samples hlen) }

theorem Canonical.afterRender {s : State} (h : Canonical s) {grid : List Half} (hlen : grid.length = 768)
    (tmin span : Nat) (hot : Option (Nat × Nat × Half)) : Canonical (render s tmin span grid hot) :=
  have hgray := (length_grayOf tmin span grid).trans hlen
  { h with
    gray := canonical_fill hgray
    color := canonical_fill ((length_colorOf s.cfg _).trans hgray)
    disp := canonical_fill (length_upscale s.cfg _) }

/-- Whatever command runs, in whatever stage, the canonical form stays: `ACQ`, `DEC` and `REN` fill whole buffers, a
cleanup empties all, and nothing else writes one. -/
theorem exec_next_canonical {i : Instr} {s t : State} (hcanon : Canonical s) (h : exec i s = .next t) : Canonical t := by
  cases i with
  | acq =>
    rcases exec_acq_next h with ⟨-, rfl⟩ | ⟨-, -, rfl⟩ | ⟨-, rfl⟩ | ⟨-, hlen, rfl⟩
    · exact hcanon.of_eq rfl rfl
    · exact hcanon.of_eq (by simp) (by simp)
    · exact hcanon.of_eq (by simp) (by simp)
    · exact (hcanon.afterLoad hlen).of_eq (by simp) (by simp)
  | val =>
    rcases exec_val_next h with ⟨-, rfl⟩ | ⟨-, rfl | rfl⟩ | ⟨-, f, -, -, -, rfl⟩
    · exact hcanon.of_eq rfl rfl
    · exact canonical_of_empty rfl
    · exact canonical_of_empty rfl
    · exact { hcanon with }
  | dec =>
    rcases exec_dec_next h with ⟨-, rfl⟩ | ⟨-, f, hfb, rfl⟩
    · exact hcanon.of_eq rfl rfl
    · exact hcanon.afterDecode (Space.contents_eq_some hfb).2
  | ana thr =>
    rcases exec_ana_next h with ⟨-, rfl⟩ | ⟨-, g, -, rfl⟩
    · exact hcanon.of_eq rfl rfl
    · exact { hcanon with }
  | alr =>
    rcases exec_alr_next h with ⟨-, rfl⟩ | ⟨-, occ, -, -, -, rfl⟩
    · exact hcanon.of_eq rfl rfl
    · exact hcanon.of_eq (by simp) (by simp)
  | ren =>
    rcases exec_ren_next h with ⟨-, rfl⟩ | ⟨-, g, a, d, m, htg, -, -, -, rfl⟩
    · exact hcanon.of_eq rfl rfl
    · exact hcanon.afterRender (Space.contents_eq_some htg).2 _ _ m
  | prs => rcases exec_prs_next h with ⟨-, rfl⟩ | ⟨-, ct, hv, -, -, rfl⟩ <;> exact hcanon.of_eq rfl rfl
  | endCycle => obtain rfl := exec_end_next h; exact canonical_of_empty rfl
  | rdr n => obtain ⟨c, d, rfl, -⟩ := exec_rdr_next h; exact hcanon.of_eq rfl rfl
  | rdt k => obtain ⟨c, d, rfl, -⟩ := exec_rdt_next h; exact hcanon.of_eq rfl rfl

/-- Settles O55: reset empties every space, an illegal word leaves them, and every command keeps their form. -/
theorem canonicalKept : Obligations.CanonicalKept := fun _ _ =>
  step_next_keeps (fun _ h => h.of_eq rfl rfl)
    (fun _ _ => canonical_of_empty rfl)
    (fun _ h => h.of_eq rfl rfl)
    (fun _ _ _ => exec_next_canonical)

end Sys2Proof.Machine
